-- ==== Sys2Proof/Word.lean ====
section
/-!
DEFINITION. Sys2Proof/Word.lean: the plainest words of the model.
A byte, a port number and the 40 coded bytes of a speech frame are what the manual transports without
looking inside.  Quantities the manual counts with (centiseconds, seconds, ids, block numbers) are `Nat`.
-/

namespace Sys2Proof

/-- One byte of a frame, a record or a stored block. -/
abbrev Byte := BitVec 8

/-- A port number, 0..15 (00_scope.md 4.4). -/
abbrev PortNo := Fin 16

/-- The 40 coded bytes of one speech frame (R33), carried and never interpreted. -/
abbrev Coded := Vector Byte 40

end Sys2Proof
end

