-- ==== Sys2Proof/Syntax.lean ====
section
/-!
DEFINITION. Sys2Proof/Syntax.lean: the commands of the block.
One constructor per row of spec/opcode_table.json.  A station command carries the port it arrives on, its
tag (R166) and its operands AS SENT, each a whole number of the size the encoding table of 11.3 gives it:
operand codes outside their set and values outside their range reach the owner, which refuses or clamps
them.  Events of the part's own timers, line and store port carry what tells one such event from another.
-/

namespace Sys2Proof

/-- One changed byte of a stored block: its offset in the block and the byte now there (R46, note). -/
structure Upset where
  offset : Nat
  byte : Byte
  deriving DecidableEq, Repr

/-- The commands and events of the VK812, in the order of the table. -/
inductive Instr
  | powerOnReset
  | hardReset
  | carrierArrives (port : PortNo)
  | carrierLost (port : PortNo)
  | lineBreak (port : PortNo)
  | badFrame (port : PortNo)
  | frameIgnoredFaulted (port : PortNo)
  | idle (port : PortNo)
  | audioSpeech (port : PortNo) (coded : Coded)
  | audioSilence (port : PortNo) (count : Nat)
  | commandUnknown (port : PortNo) (tag : Byte) (code : Nat)
  | attach (port : PortNo) (tag : Byte) (station role mask : Nat)
  | detach (port : PortNo) (tag : Byte)
  | setMask (port : PortNo) (tag : Byte) (mask : Nat)
  | openTake (port : PortNo) (tag : Byte) (matter : Nat)
  | openTakeContinue (port : PortNo) (tag : Byte) (matter take : Nat)
  | pause (port : PortNo) (tag : Byte)
  | resume (port : PortNo) (tag : Byte)
  | closeTake (port : PortNo) (tag : Byte)
  | mark (port : PortNo) (tag : Byte) (kind number : Nat)
  | offRecordBegin (port : PortNo) (tag : Byte)
  | offRecordEnd (port : PortNo) (tag : Byte)
  | restrictBegin (port : PortNo) (tag : Byte) (level : Nat)
  | restrictEnd (port : PortNo) (tag : Byte)
  | readbackBegin (port : PortNo) (tag : Byte) (form value : Nat)
  | readbackEnd (port : PortNo) (tag : Byte)
  | play (port : PortNo) (tag : Byte)
  | stop (port : PortNo) (tag : Byte)
  | stepBack (port : PortNo) (tag : Byte) (n : Nat)
  | stepAhead (port : PortNo) (tag : Byte) (n : Nat)
  | seek (port : PortNo) (tag : Byte) (time : Nat)
  | seekCue (port : PortNo) (tag : Byte) (direction kinds : Nat)
  | jumpTime (port : PortNo) (tag : Byte) (time : Nat)
  | jumpCue (port : PortNo) (tag : Byte) (cue : Nat)
  | backtrack (port : PortNo) (tag : Byte)
  | ready (port : PortNo) (tag : Byte) (pool : Nat)
  | unready (port : PortNo) (tag : Byte)
  | peek (port : PortNo) (tag : Byte) (pool : Nat)
  | claim (port : PortNo) (tag : Byte)
  | accept (port : PortNo) (tag : Byte) (take ordinal : Nat)
  | decline (port : PortNo) (tag : Byte) (take ordinal : Nat)
  | finish (port : PortNo) (tag : Byte) (pages : Nat)
  | yield (port : PortNo) (tag : Byte)
  | resumeHold (port : PortNo) (tag : Byte)
  | closeTakeDesk (port : PortNo) (tag : Byte) (take : Nat)
  | restrictSpan (port : PortNo) (tag : Byte) (take start stop level : Nat)
  | releaseTake (port : PortNo) (tag : Byte) (take : Nat)
  | exportBegin (port : PortNo) (tag : Byte) (take : Nat)
  | exportStop (port : PortNo) (tag : Byte)
  | recall (port : PortNo) (tag : Byte) (take ordinal : Nat)
  | repool (port : PortNo) (tag : Byte) (take ordinal pool : Nat)
  | fetchLog (port : PortNo) (tag : Byte) (n : Nat)
  | setClock (port : PortNo) (tag : Byte) (seconds : Nat)
  | setClearance (port : PortNo) (tag : Byte) (station level : Nat)
  | getClearance (port : PortNo) (tag : Byte) (station : Nat)
  | status (port : PortNo) (tag : Byte)
  | listTakes (port : PortNo) (tag : Byte) (start : Nat)
  | listCues (port : PortNo) (tag : Byte) (take start : Nat)
  | listChunks (port : PortNo) (tag : Byte) (form selector start : Nat)
  | getLinks (port : PortNo) (tag : Byte)
  | enterSetup (port : PortNo) (tag : Byte)
  | leaveSetup (port : PortNo) (tag : Byte)
  | setFilter (port : PortNo) (tag : Byte)
      (index enabled kind first second target turnaround whole floor : Nat)
  | setDefaultAction (port : PortNo) (tag : Byte) (target turnaround whole floor : Nat)
  | setPauseThreshold (port : PortNo) (tag : Byte) (threshold : Nat)
  | setWatermark (port : PortNo) (tag : Byte) (blocks : Nat)
  | setPoolSplit (port : PortNo) (tag : Byte) (pool length window leadIn ratio : Nat)
  | setPoolMode (port : PortNo) (tag : Byte) (pool discipline reoffer : Nat)
  | setOfferTimeout (port : PortNo) (tag : Byte) (seconds : Nat)
  | setGrace (port : PortNo) (tag : Byte) (seconds : Nat)
  | setDropTime (port : PortNo) (tag : Byte) (seconds : Nat)
  | getFilter (port : PortNo) (tag : Byte) (index : Nat)
  | getIntake (port : PortNo) (tag : Byte)
  | getPool (port : PortNo) (tag : Byte) (pool : Nat)
  | getHandoff (port : PortNo) (tag : Byte)
  | quietTimerExpiry (port : PortNo)
  | dropTimerExpiry (port : PortNo)
  | sendTimerExpiry (port : PortNo)
  | offerTimerExpiry (port : PortNo)
  | graceTimerExpiry (take ordinal : Nat)
  | officeClockTick
  | playFrameDue (port : PortNo)
  | writeTenureComplete
  /-- `upsets`: the bytes of the block in tenure that the DRAM has changed since it was written (R46);
  `requestFirst`: whether the read the player asks for next reaches the arbiter before this completion's
  grant (R47 leaves the order of arrivals at one moment open). -/
  | readTenureComplete (upsets : List Upset) (requestFirst : Bool)
  | releaseStepComplete
  | resetPinAsserted
  deriving DecidableEq, Repr

end Sys2Proof
end

