-- ==== Sys2Proof/Decode.lean ====
section
/-!
DEFINITION. Sys2Proof/Decode.lean: commands from the words of the opcode table.
No row of the table gives bits (its commands are protocol operations, frames and events, not words), so no
word spells a command here.  How the bytes of a frame become commands is Machine/Receive.lean.
-/

namespace Sys2Proof

/-- The command a table word spells: none, since the table gives bits for no row (log 7). -/
def decodeTableWord (_nbits _w : Nat) : Option Instr := none

end Sys2Proof
end

