-- ==== Sys2Proof/Machine/Vocab.lean ====
section
/-!
DEFINITION. Sys2Proof/Machine/Vocab.lean: the manual's own names.
States, roles, kinds and codes that the manual writes in capitals, the records that replies and notices
carry (chapter 11), and the frames the part sends.
-/

namespace Sys2Proof.Machine

/-- Port states (9.2). -/
inductive PortState
  | down | listening | attached | quiet | faulted
  deriving DecidableEq, Repr

/-- The role a station plays on its port (9.1). "none" is the absence of a role. -/
inductive Role
  | recorder | reader | typist | desk
  deriving DecidableEq, Repr

/-- The four pools (4.4 of the conventions). -/
inductive PoolId
  | a | b | c | d
  deriving DecidableEq, Repr

/-- States of a take whose record is not FREE (1.2). FREE is the absence of a take in a slot. -/
inductive TakeState
  | recording | paused | readback | closed | releasing
  deriving DecidableEq, Repr

/-- The fifteen cue kinds, in the order of the kind table of 1.3. -/
inductive CueKind
  | speaker | exhibit | note | autoPause | pause | resume | offRecordBegin | offRecordEnd
  | restrictBegin | restrictEnd | readbackBegin | readbackEnd | gap | linkQuiet | takeLimit
  deriving DecidableEq, Repr

/-- Who caused a cue (1.3). -/
inductive Origin
  | recorder | auto | desk
  deriving DecidableEq, Repr

/-- The five states of a live chunk (6.1). -/
inductive ChunkState
  | parked | pending | offered | held | lapsing
  deriving DecidableEq, Repr

/-- Play modes (7.1). -/
inductive Mode
  | stopped | playing | stalled
  deriving DecidableEq, Repr

/-- When the next frame of a context may be sent (7.1): as soon as data covers the cursor, or at a due moment. -/
inductive Pacing
  | onData | due
  deriving DecidableEq, Repr

/-- The three kinds of play context (7.1). -/
inductive CtxKind
  | typist | reader | exporting
  deriving DecidableEq, Repr

/-- How a filter element compares its operands with the matter code (R26). -/
inductive FilterKind
  | range | mask | pair
  deriving DecidableEq, Repr

/-- Queue order of a pool (R78). -/
inductive Discipline
  | arrival | urgency
  deriving DecidableEq, Repr

/-- Operating state (R157). -/
inductive OpState
  | setup | run
  deriving DecidableEq, Repr

/-- Kinds of completion log record (6.7). -/
inductive LogKind
  | finished | recalled | lapsed
  deriving DecidableEq, Repr

/-- Directory states of a block (R42) other than FREE, which is the absence of an entry. -/
inductive BlockState
  | assembling | writing | stored | damaged
  deriving DecidableEq, Repr

/-- Why a cut is deferred (R65). -/
inductive DeferReason
  | tableFull | sequenceEnd
  deriving DecidableEq, Repr

/-- Reason codes 1..16 (R155, 11.5), in table order. -/
inductive Reason
  | notRunning | notSetup | wrongRole | wrongState | noSuch | tableFull | spanOpen | noSpan | notPaused
  | takeBusy | lost | holding | expired | empty | inUse | unknown
  deriving DecidableEq, Repr

/-- The detail of a TAKE_BUSY reply (11.3): the unmet condition of R20 or R158. -/
inductive Unmet
  | notClosed | notExported | chunksLive | readersPresent | takesOpen | chunksInWork
  deriving DecidableEq, Repr

/-- The result of a reply (R155). The detail is given only where a rule gives one. -/
inductive Result
  | ok
  | clamped
  | refused (reason : Reason) (detail : Option Unmet)
  deriving DecidableEq, Repr

/-- The name of a chunk: take id and ordinal (6.1). -/
structure ChunkName where
  take : Nat
  ordinal : Nat
  deriving DecidableEq, Repr

/-- Where new chunks of a take go (2.2): a pool, or PARK when absent. -/
structure Action where
  target : Option PoolId
  turnaround : Nat
  whole : Bool
  floor : Nat
  deriving DecidableEq, Repr

/-- One element of the matter filter (2.2). -/
structure FilterElem where
  enabled : Bool
  kind : FilterKind
  first : Nat
  second : Nat
  action : Action
  deriving DecidableEq, Repr

/-- A cue entry (1.3). The entry's take is the one whose list holds it. -/
structure Cue where
  index : Nat
  time : Nat
  kind : CueKind
  arrival : Nat
  value : Option Nat
  origin : Origin
  deriving DecidableEq, Repr

/-- One frame record of a block (R33): 42 bytes of speech for 2 cs, or 2 bytes for `count` silent frame-times. -/
inductive Rec
  | speech (coded : Coded)
  | silence (count : Nat)
  deriving DecidableEq, Repr

/-- A completion log record (6.7). -/
structure LogRec where
  kind : LogKind
  chunk : ChunkName
  station : Option Nat
  clock : Nat
  heldSince : Option Nat
  pages : Nat
  tooLate : Bool
  deriving DecidableEq, Repr

/-- The chunk summary of 6.1, laid out in 11.4. -/
structure ChunkSummary where
  name : ChunkName
  ownStart : Nat
  ownEnd : Nat
  playStart : Nat
  billable : Nat
  estimate : Nat
  due : Nat
  key : Nat
  required : Nat
  pool : Option PoolId
  state : ChunkState
  reissues : Nat
  final : Bool
  merged : Bool
  noOffer : Bool
  deriving DecidableEq, Repr

/-- The take summary of R164, laid out in 11.4. -/
structure TakeSummary where
  id : Nat
  matter : Nat
  action : Action
  exported : Bool
  offRecordOpen : Bool
  deferred : Bool
  state : TakeState
  recPort : Option PortNo
  station : Nat
  openedAt : Nat
  closedAt : Option Nat
  endTime : Nat
  restrictOpen : Option Nat
  cursor : Nat
  nextOrdinal : Nat
  chunksMade : Nat
  chunksFinished : Nat
  damagedSeen : Nat
  readers : Nat
  deriving DecidableEq, Repr

/-- Reply values whose encoding the table of 11.3 does not list. -/
inductive Unlisted
  | portState (st : PortState)
  | mode (m : Mode)
  | readyPosition (n : Nat)
  | entriesInUse (n : Nat)
  | errorCount (n : Nat)
  | minimumTail (n : Nat)
  | queueLength (n : Nat)
  | queuePending (n : Nat)
  | readyLength (n : Nat)
  | logLeft (n : Nat)
  | blockCount (n : Nat)
  | damagedCount (n : Nat)
  | logCount (n : Nat)
  | answer (yes : Bool)
  | noTake
  deriving DecidableEq, Repr

/-- The values a reply or notice carries, in the order its rule lists them (11.3). -/
inductive Item
  /-- a pool, or PARK when absent -/
  | pool (p : Option PoolId)
  | role (r : Option Role)
  | port (p : PortNo)
  | level (n : Nat)
  | station (s : Option Nat)
  | takeId (n : Nat)
  | ordinal (n : Nat)
  | cueIndex (i : Option Nat)
  | time (n : Nat)
  | number (n : Nat)
  | count (n : Nat)
  | clock (n : Nat)
  | matter (n : Nat)
  | ratio (n : Nat)
  | filterKind (k : FilterKind)
  | flag (b : Bool)
  | discipline (d : Discipline)
  | reoffer (b : Bool)
  | mask (m : Nat)
  | next (n : Option Nat)
  | deferReason (r : DeferReason)
  | chunk (c : ChunkSummary)
  | take (t : TakeSummary)
  | cue (take : Nat) (c : Cue)
  | logRec (r : LogRec)
  | status (opState : OpState) (clock free live opened cueFree chunks deferred arrival log : Nat)
      (low overrun : Bool)
  | unlisted (u : Unlisted)
  deriving DecidableEq, Repr

/-- The eighteen notices with what each carries (R156). -/
inductive Notice
  | storeLow (free : Nat)
  | storeRecovered (free : Nat)
  | storeEmpty (take noted : Nat)
  | splitDeferred (take at_ : Nat) (reason : DeferReason)
  | logPending (count : Nat)
  | released (take : Nat)
  | damagedBlock (take start stop : Nat)
  | exportEnd (take stop damaged : Nat) (silenced : Bool)
  | chunkOffer (c : ChunkSummary)
  | offerWithdrawn (c : ChunkName)
  | offerLapsed (c : ChunkName)
  | recallRequested (c : ChunkName)
  | playEnd (take cursor : Nat)
  | playStall (take cursor : Nat)
  | restrictedSilenced (take time level : Nat)
  | audioDiscarded (take : Option Nat)
  | takeLimit (take stop : Nat)
  | linkWarning (count : Nat)
  deriving DecidableEq, Repr

/-- A reply: the command code answered, the result and the values carried (11.3). -/
structure Reply where
  code : Nat
  result : Result
  items : List Item
  deriving DecidableEq, Repr

/-- The frames the part sends (9.3, 11.2). -/
inductive Frame
  | idle
  | reply (tag : Byte) (r : Reply)
  | notice (n : Notice)
  | playSpeech (take time : Nat) (coded : Coded)
  | playSilence (take time : Nat)
  | exportSpeech (take time : Nat) (coded : Coded)
  | exportSilence (take time count : Nat)
  deriving DecidableEq, Repr

end Sys2Proof.Machine
end

