-- ==== Sys2Proof/Config.lean ====
section
/-!
DEFINITION. Sys2Proof/Config.lean: what the part fixes, and what its manual leaves open.
The numbers are the manual's.  The `opaque` constants are FREE VALUES: the manual gives them no value, they
have no body here, and no proof can see what they are.
-/

namespace Sys2Proof.Config

open Machine

/-- The largest take end E, cs (00_scope.md 4.2, R40). -/
def takeLimit : Nat := 16777214
/-- The top of every 32-bit count: office clock, arrivals, due times, matter codes (4.3, R11, R73). -/
def top32 : Nat := 4294967295
/-- Cue pool entries (1.4). -/
def cuePool : Nat := 4096
/-- Cue pool entries kept for closing cues (1.4). -/
def cueReserve : Nat := 64
/-- Take records (1.1). -/
def takeSlots : Nat := 64
/-- Chunk records (6.1). -/
def chunkRecords : Nat := 512
/-- Store blocks (3.1). -/
def blocks : Nat := 131072
/-- Bytes of one block (R33). -/
def blockBytes : Nat := 4096
/-- Completion log records (6.7). -/
def logRecords : Nat := 64
/-- Clearance table entries (10.3). -/
def clearanceEntries : Nat := 32
/-- Position stack depth (R118). -/
def stackDepth : Nat := 8
/-- Read results held ahead of the cursor (7.1). -/
def readAheadDepth : Nat := 2
/-- Records returned by one list query (R164). -/
def pageRecords : Nat := 4

/-- FREE VALUE (log 3): the 2-byte head of a speech record; R33 gives its size only. -/
opaque speechHead : BitVec 16

/-- FREE VALUE (log 3): the 2 bytes of a silence record of the given count; R33 gives their size only. -/
opaque silenceHead : Nat → BitVec 16

/-- FREE VALUE (log 4): the records a stored block reads as when the head of a record stands otherwise than it
was written and the check value still matches.  First argument: the records as written; second: the bytes now. -/
opaque reframed : List Rec → List Byte → List Rec

/-- FREE VALUE (log 5): the bytes of a reply or notice value whose encoding 11.3 does not list. -/
opaque unlistedBytes : Unlisted → List Byte

/-- FREE VALUE (log 6): what the bytes of an OPEN_TAKE body after the matter code say of the continue option, which
11.3 does not lay out: that it is absent, or the take id it names; none when they are too short for it. -/
opaque continueOption : List Byte → Option (Option (BitVec 16))

end Sys2Proof.Config
end

