-- ==== Sys2Proof/Machine/State.lean ====
section
/-!
DEFINITION. Sys2Proof/Machine/State.lean: the state of the VK812, as plain data, and its reset.
Every block of section 3 of the manual owns the fields its chapter names; INVENTORY.md lists each with its
rule.  Views the manual names twice (a pool's queue, a port's ready pool, the cue pool's free entries) are
stored once and computed in Ops.lean.
-/

namespace Sys2Proof.Machine

/-- Sparse data by key: pairs with strictly rising keys; an unlisted key is absent (FREE). -/
abbrev Table (α : Type) := List (Nat × α)

/-- The canonical form of a table: strictly rising keys. -/
abbrev Table.wf {α : Type} (t : Table α) : Prop := t.Pairwise (fun x y => x.1 < y.1)

/-- A take record that is not FREE (1.1).  The split state (4.2) is kept in it. -/
structure Take where
  id : Nat
  matter : Nat
  action : Action
  state : TakeState
  recPort : Option PortNo
  station : Nat
  openedAt : Nat
  closedAt : Option Nat
  endTime : Nat
  /-- (block number, start time), in take-time order -/
  chain : List (Nat × Nat)
  cues : List Cue
  offRecordOpen : Bool
  restrictOpen : Option Nat
  cursor : Nat
  nextOrdinal : Nat
  deferred : Bool
  chunksMade : Nat
  chunksFinished : Nat
  damagedSeen : Nat
  exported : Bool
  readers : Nat
  deriving DecidableEq, Repr

/-- A live chunk record (6.1), with its grace timer (R102). -/
structure Chunk where
  name : ChunkName
  ownStart : Nat
  ownEnd : Nat
  playStart : Nat
  required : Nat
  billable : Nat
  estimate : Nat
  due : Nat
  key : Nat
  pool : Option PoolId
  state : ChunkState
  arrival : Nat
  offeree : Option PortNo
  holderStation : Option Nat
  holderPort : Option PortNo
  heldSince : Option Nat
  savedCursor : Option Nat
  /-- the running grace timer, with the grace period its lapse began with -/
  graceTimer : Option Nat
  lastDecliner : Option PortNo
  noOffer : Bool
  recallPending : Bool
  reissues : Nat
  final : Bool
  merged : Bool
  deriving DecidableEq, Repr

/-- The port record of the Station Link Interface (9.1).  Timers are running or stopped; the drop timer
keeps the drop time its quiet began with (R152). -/
structure Link where
  state : PortState
  role : Option Role
  station : Option Nat
  clearance : Nat
  mask : Nat
  errorCount : Nat
  warning : Bool
  faultLatch : Bool
  quietTimer : Bool
  dropTimer : Option Nat
  sendTimer : Bool
  deriving DecidableEq, Repr

/-- An assembly buffer (2.3). -/
inductive Buffer
  | empty
  | assembling (block take start : Nat) (recs : List Rec)
  | writing (block take start : Nat) (recs : List Rec)
  deriving DecidableEq, Repr

/-- An active silence run (2.5). -/
structure Run where
  start : Nat
  length : Nat
  attempted : Bool
  deriving DecidableEq, Repr

/-- The Intake Unit's state of one port (Chapter 2). -/
structure Intake where
  buf0 : Buffer
  buf1 : Buffer
  run : Option Run
  gap : Option Nat
  starving : Bool
  discard : Bool
  deriving DecidableEq, Repr

/-- An outstanding offer and the timeout its timer started with (R84). -/
structure Offer where
  chunk : ChunkName
  timeout : Nat
  deriving DecidableEq, Repr

/-- The Hand-off Unit's state of one port: offer state (5.3) and reservation (6.3). -/
structure Handoff where
  offer : Option Offer
  lapsed : Option ChunkName
  reservation : Option ChunkName
  deriving DecidableEq, Repr

/-- A read result held in a read-ahead (R52): its span, and records laid from `recStart`; what no record
covers is silence. -/
structure ReadResult where
  block : Option Nat
  start : Nat
  stop : Nat
  recStart : Nat
  recs : List Rec
  deriving DecidableEq, Repr

/-- A play context (7.1). -/
structure Ctx where
  take : Nat
  kind : CtxKind
  startBound : Nat
  endBound : Nat
  cursor : Nat
  mode : Mode
  pacing : Pacing
  /-- newest on top (head) -/
  stack : List Nat
  readAhead : List ReadResult
  outstanding : Bool
  stretch : Bool
  damagedCount : Nat
  silenced : Bool
  closedAtBegin : Bool
  deriving DecidableEq, Repr

/-- Everything kept for one port. -/
structure Port where
  link : Link
  intake : Intake
  handoff : Handoff
  ctx : Option Ctx
  lastDamage : Option Nat
  deriving DecidableEq, Repr

/-- A block directory entry other than FREE (R42). -/
structure DirEntry where
  state : BlockState
  owner : Nat
  port : Option PortNo
  start : Nat
  duration : Option Nat
  bytesUsed : Option Nat
  check : Option (BitVec 16)
  deriving DecidableEq, Repr

/-- A block as it stands in the DRAM: the records it was written as, and its bytes used as they stand now. -/
structure Stored where
  recs : List Rec
  bytes : List Byte
  deriving DecidableEq, Repr

/-- A write request (R49). -/
structure WriteReq where
  port : PortNo
  /-- buffer 0 or 1 of the port -/
  buf : Bool
  block : Nat
  start : Nat
  duration : Nat
  bytesUsed : Nat
  deriving DecidableEq, Repr

/-- A read request (R50); its class is the kind of the context that asked. -/
structure ReadReq where
  port : PortNo
  kind : CtxKind
  take : Nat
  time : Nat
  deriving DecidableEq, Repr

/-- What a read resolved to at its grant (R51, R52). -/
inductive Source
  | buffered (recs : List Rec)
  | stored
  | damaged
  | nothing
  deriving DecidableEq, Repr

/-- The request in tenure (R47). -/
inductive Tenure
  | write (r : WriteReq)
  | read (r : ReadReq) (block : Option Nat) (start stop recStart : Nat) (source : Source) (stale : Bool)
  | release (take : Nat)
  deriving DecidableEq, Repr

/-- The tenure arbiter (3.4): the request in tenure (idle when absent), the waiting requests of the five
classes, and the last port granted of classes 1 to 4. -/
structure Arbiter where
  tenure : Option Tenure
  writes : List WriteReq
  reads : List ReadReq
  releases : List Nat
  lastWrite : PortNo
  lastReader : PortNo
  lastTypist : PortNo
  lastExport : PortNo
  deriving DecidableEq, Repr

/-- The free list (3.2), in order: the blocks `fresh .. 131,071` never yet allocated since reset, then the
blocks returned, oldest return first. -/
structure FreeList where
  fresh : Nat
  returned : List Nat
  deriving DecidableEq, Repr

/-- One pool (5.1): its parameters and ready list.  Its queue is computed from the chunk table (R78). -/
structure Pool where
  length : Nat
  window : Nat
  leadIn : Nat
  ratio : Nat
  discipline : Discipline
  reoffer : Bool
  ready : List PortNo
  deriving DecidableEq, Repr

/-- The four pools. -/
structure Pools where
  a : Pool
  b : Pool
  c : Pool
  d : Pool
  deriving DecidableEq, Repr

/-- Why the machine stops.  Nothing in the manual stops the part: no constructor, so no step faults. -/
inductive Fault
  deriving DecidableEq, Repr

/-- Why a command has no meaning. -/
inductive Refusal
  /-- raised by `exec` alone, for a command not yet modelled; safe.  No arm of exec raises it. -/
  | notModelled (mnemonic : String)
  deriving DecidableEq, Repr

/-- The state of the VK812. -/
structure State where
  /-- commands and events waiting to be taken, first in, first out (the model's own) -/
  pending : List Instr
  /-- the reset pin is held low (R165) -/
  resetHeld : Bool
  opState : OpState
  clock : Nat
  /-- station id to level 1..3 (10.3) -/
  clearances : Table Nat
  ports : Vector Port 16
  /-- take records that are not FREE, by slot (1.1) -/
  takes : Table Take
  takeIdCounter : Nat
  cueArrival : Nat
  filter : Vector FilterElem 32
  defaultAction : Action
  pauseThreshold : Nat
  /-- directory entries that are not FREE, by block number (3.1) -/
  directory : Table DirEntry
  /-- DRAM content of STORED and DAMAGED blocks, by block number -/
  store : Table Stored
  free : FreeList
  arbiter : Arbiter
  lowFlag : Bool
  watermark : Nat
  /-- take ids, oldest deferral first (4.2) -/
  deferral : List Nat
  arrivalSeq : Nat
  /-- live chunks (6.1); a free record is the absence of one -/
  chunks : List Chunk
  pools : Pools
  offerTimeout : Nat
  grace : Nat
  log : List LogRec
  overrun : Bool
  dropTime : Nat
  /-- every frame handed to a line since reset, in order, with its port -/
  out : List (PortNo × Frame)
  deriving DecidableEq, Repr

/-- A port record after reset (R143). -/
def Link.reset : Link :=
  { state := .down, role := none, station := none, clearance := 0, mask := 0, errorCount := 0,
    warning := false, faultLatch := false, quietTimer := false, dropTimer := none, sendTimer := false }

/-- One port after reset: R143, R41, R93, R112, R131 and R58. -/
def Port.reset : Port :=
  { link := .reset
    intake := { buf0 := .empty, buf1 := .empty, run := none, gap := none, starving := false,
                discard := false }
    handoff := { offer := none, lapsed := none, reservation := none }
    ctx := none
    lastDamage := none }

/-- The default action after reset (R41). -/
def Action.reset : Action :=
  { target := some .a, turnaround := 86400, whole := false, floor := 0 }

/-- A filter element after reset (R41). -/
def FilterElem.reset : FilterElem :=
  { enabled := false, kind := .range, first := 0, second := 0, action := .reset }

/-- A pool after reset (R75, R93). -/
def Pool.reset : Pool :=
  { length := 30000, window := 1500, leadIn := 500, ratio := 16, discipline := .arrival,
    reoffer := true, ready := [] }

/-- The arbiter after reset (R58). -/
def Arbiter.reset : Arbiter :=
  { tenure := none, writes := [], reads := [], releases := [], lastWrite := 15, lastReader := 15,
    lastTypist := 15, lastExport := 15 }

/-- The part after power-on or hard reset: R22, R41, R58, R75, R93, R112, R131, R143, R165. -/
def State.reset : State :=
  { pending := []
    resetHeld := false
    opState := .setup
    clock := 0
    clearances := []
    ports := Vector.replicate 16 .reset
    takes := []
    takeIdCounter := 1
    cueArrival := 0
    filter := Vector.replicate 32 .reset
    defaultAction := .reset
    pauseThreshold := 150
    directory := []
    store := []
    free := { fresh := 0, returned := [] }
    arbiter := .reset
    lowFlag := false
    watermark := 1024
    deferral := []
    arrivalSeq := 0
    chunks := []
    pools := { a := .reset, b := .reset, c := .reset, d := .reset }
    offerTimeout := 30
    grace := 600
    log := []
    overrun := false
    dropTime := 60
    out := [] }

end Sys2Proof.Machine
end

