-- ==== Sys2Proof/Machine/Table.lean ====
section
/-!
DEFINITION. Sys2Proof/Machine/Table.lean: reading and writing the sparse tables (directory, store, take
records by slot, clearance table), and the free list.
-/

namespace Sys2Proof.Machine

/-- The entry at `k`, if listed. -/
def Table.find {α : Type} : Table α → Nat → Option α
  | [], _ => none
  | (j, v) :: t, k => if j = k then some v else Table.find t k

/-- Write `v` at `k`, keeping the keys rising. -/
def Table.put {α : Type} : Table α → Nat → α → Table α
  | [], k, v => [(k, v)]
  | (j, w) :: t, k, v =>
    if k < j then (k, v) :: (j, w) :: t
    else if k = j then (k, v) :: t
    else (j, w) :: Table.put t k v

/-- Remove the entry at `k`. -/
def Table.drop {α : Type} : Table α → Nat → Table α
  | [], _ => []
  | (j, w) :: t, k => if j = k then t else (j, w) :: Table.drop t k

/-- Change the entry at `k`, if listed. -/
def Table.change {α : Type} (t : Table α) (k : Nat) (f : α → α) : Table α :=
  t.map (fun e => if e.1 = k then (e.1, f e.2) else e)

/-- The first of `fuel` numbers from `n` on that is not in `used`. -/
def firstFree (used : List Nat) : Nat → Nat → Option Nat
  | 0, _ => none
  | fuel + 1, n => if used.contains n then firstFree used fuel (n + 1) else some n

/-- The free list as the manual's ordered list of block numbers (3.2). -/
def FreeList.toList (f : FreeList) : List Nat :=
  List.range' f.fresh (Config.blocks - f.fresh) ++ f.returned

/-- The free count (R44). -/
def FreeList.count (f : FreeList) : Nat := (Config.blocks - f.fresh) + f.returned.length

/-- Take the block at the head, if any (R45). -/
def FreeList.pop (f : FreeList) : Option (Nat × FreeList) :=
  if f.fresh < Config.blocks then some (f.fresh, { f with fresh := f.fresh + 1 })
  else
    match f.returned with
    | [] => none
    | b :: rest => some (b, { f with returned := rest })

/-- Append a returned block at the tail (R56). -/
def FreeList.push (f : FreeList) (b : Nat) : FreeList := { f with returned := f.returned ++ [b] }

end Sys2Proof.Machine
end

