-- ==== Sys2Proof/Machine/Ops.lean ====
section
/-!
DEFINITION. Sys2Proof/Machine/Ops.lean: the named operations over ports, frames sent, take records and chunk
records that every block's rules are written with.
-/

namespace Sys2Proof.Machine

/-! ### Ports -/

/-- The sixteen ports in ascending order. -/
def allPorts : List PortNo := [0, 1, 2, 3, 4, 5, 6, 7, 8, 9, 10, 11, 12, 13, 14, 15]

/-- The record of a port. -/
def State.port (s : State) (p : PortNo) : Port := s.ports[p]

/-- The port record of the SLI. -/
def State.link (s : State) (p : PortNo) : Link := (s.port p).link

/-- The intake state of a port. -/
def State.intake (s : State) (p : PortNo) : Intake := (s.port p).intake

/-- The hand-off state of a port. -/
def State.handoff (s : State) (p : PortNo) : Handoff := (s.port p).handoff

/-- The play context of a port. -/
def State.ctx (s : State) (p : PortNo) : Option Ctx := (s.port p).ctx

/-- Replace the record of a port. -/
def State.setPort (s : State) (p : PortNo) (q : Port) : State := { s with ports := s.ports.set p q }

/-- Replace the port record of the SLI. -/
def State.setLink (s : State) (p : PortNo) (l : Link) : State :=
  s.setPort p { s.port p with link := l }

/-- Replace the intake state of a port. -/
def State.setIntake (s : State) (p : PortNo) (i : Intake) : State :=
  s.setPort p { s.port p with intake := i }

/-- Replace the hand-off state of a port. -/
def State.setHandoff (s : State) (p : PortNo) (h : Handoff) : State :=
  s.setPort p { s.port p with handoff := h }

/-- Replace the play context of a port. -/
def State.setCtx (s : State) (p : PortNo) (c : Option Ctx) : State :=
  s.setPort p { s.port p with ctx := c }

/-- Replace a port's last damage notified (R54). -/
def State.setLastDamage (s : State) (p : PortNo) (b : Option Nat) : State :=
  s.setPort p { s.port p with lastDamage := b }

/-- A port is attached while ATTACHED or QUIET (9.1). -/
def Link.isAttached (l : Link) : Bool := l.state = .attached || l.state = .quiet

/-- A port takes and sends frames while LISTENING, ATTACHED or QUIET (9.2, R147). -/
def Link.takesFrames (l : Link) : Bool :=
  l.state = .listening || l.state = .attached || l.state = .quiet

/-- The attached ports whose role is in `roles`, ascending. -/
def State.portsOf (s : State) (roles : List Role) : List PortNo :=
  allPorts.filter (fun p =>
    (s.link p).isAttached && roles.any (fun r => (s.link p).role = some r))

/-! ### Frames sent -/

/-- Hand a frame to a port's line.  A DOWN or FAULTED port sends nothing (R144, R147).  Each frame sent
restarts the send timer, which keeps running (R150). -/
def State.emit (s : State) (p : PortNo) (f : Frame) : State :=
  if (s.link p).takesFrames then { s with out := s.out ++ [(p, f)] } else s

/-- The notice's code, 1..18 (11.5). -/
def Notice.code : Notice → Nat
  | .storeLow _ => 1
  | .storeRecovered _ => 2
  | .storeEmpty _ _ => 3
  | .splitDeferred _ _ _ => 4
  | .logPending _ => 5
  | .released _ => 6
  | .damagedBlock _ _ _ => 7
  | .exportEnd _ _ _ _ => 8
  | .chunkOffer _ => 9
  | .offerWithdrawn _ => 10
  | .offerLapsed _ => 11
  | .recallRequested _ => 12
  | .playEnd _ _ => 13
  | .playStall _ _ => 14
  | .restrictedSilenced _ _ _ => 15
  | .audioDiscarded _ => 16
  | .takeLimit _ _ => 17
  | .linkWarning _ => 18

/-- A port's mask holds the notice's kind: bit (code − 1) of the mask is set (11.3). -/
def Link.masks (l : Link) (n : Notice) : Bool := l.mask.testBit (n.code - 1)

/-- Send a notice to one port: the port must be attached and its mask must admit it (R156). -/
def State.notify (s : State) (p : PortNo) (n : Notice) : State :=
  if (s.link p).isAttached && !(s.link p).masks n then s.emit p (.notice n) else s

/-- Send a notice to each port of a list, in order. -/
def State.notifyEach (s : State) (ps : List PortNo) (n : Notice) : State :=
  ps.foldl (fun s p => s.notify p n) s

/-- Send a notice to every attached desk (R156). -/
def State.notifyDesks (s : State) (n : Notice) : State := s.notifyEach (s.portsOf [.desk]) n

/-! ### Commands -/

/-- What a reply needs of the command it answers. -/
structure Cmd where
  port : PortNo
  tag : Byte
  code : Nat
  deriving DecidableEq, Repr

/-- Answer a command (R155). -/
def State.reply (s : State) (c : Cmd) (r : Result) (items : List Item) : State :=
  s.emit c.port (.reply c.tag { code := c.code, result := r, items := items })

/-- Answer OK. -/
def State.ok (s : State) (c : Cmd) (items : List Item) : State := s.reply c .ok items

/-- Refuse a command with a reason: nothing but the reply changes (R155). -/
def State.refuse (s : State) (c : Cmd) (r : Reason) : State := s.reply c (.refused r none) []

/-- Refuse with TAKE_BUSY, the detail naming the unmet condition (11.3). -/
def State.refuseUnmet (s : State) (c : Cmd) (u : Unmet) : State :=
  s.reply c (.refused .takeBusy (some u)) []

/-- CLAMPED when an operand was changed, with the values in effect; otherwise OK with none (R155). -/
def State.replyClamped (s : State) (c : Cmd) (changed : Bool) (items : List Item) : State :=
  if changed then s.reply c .clamped items else s.ok c []

/-- CLAMPED or OK, the values carried either way. -/
def State.replyBoth (s : State) (c : Cmd) (changed : Bool) (items : List Item) : State :=
  s.reply c (if changed then .clamped else .ok) items

/-! ### Take records -/

/-- The take of an id, if a record that is not FREE has it. -/
def State.take? (s : State) (id : Nat) : Option Take :=
  (s.takes.find? (fun e => e.2.id = id)).map (·.2)

/-- Change the take of an id. -/
def State.updTake (s : State) (id : Nat) (f : Take → Take) : State :=
  { s with takes := s.takes.map (fun e => if e.2.id = id then (e.1, f e.2) else e) }

/-- A take is open while RECORDING, PAUSED or READBACK (1.1). -/
def Take.isOpen (t : Take) : Bool :=
  t.state = .recording || t.state = .paused || t.state = .readback

/-- A take is orphaned while PAUSED with its recorder port absent (1.1). -/
def Take.isOrphaned (t : Take) : Bool := t.state = .paused && t.recPort = none

/-- The take of a recorder link: the open take whose recorder port it is (R1). -/
def State.linkTake (s : State) (p : PortNo) : Option Take :=
  (s.takes.find? (fun e => e.2.recPort = some p && e.2.isOpen)).map (·.2)

/-! ### Chunk records -/

/-- The live chunk of a name. -/
def State.chunk? (s : State) (n : ChunkName) : Option Chunk := s.chunks.find? (fun c => c.name = n)

/-- Every reservation naming a chunk becomes absent (R97). -/
def State.clearReservations (s : State) (n : ChunkName) : State :=
  { s with ports := s.ports.map (fun q =>
      if q.handoff.reservation = some n then
        { q with handoff := { q.handoff with reservation := none } }
      else q) }

/-- Change a chunk's record; each change clears the reservations naming it (6.2, R97). -/
def State.updChunk (s : State) (n : ChunkName) (f : Chunk → Chunk) : State :=
  State.clearReservations
    { s with chunks := s.chunks.map (fun c => if c.name = n then f c else c) } n

/-- Remove a chunk's record: it is free again (R100). -/
def State.freeChunk (s : State) (n : ChunkName) : State :=
  { s with chunks := s.chunks.filter (fun c => c.name ≠ n) }

/-- The chunk summary (6.1). -/
def Chunk.summary (c : Chunk) : ChunkSummary :=
  { name := c.name, ownStart := c.ownStart, ownEnd := c.ownEnd, playStart := c.playStart,
    billable := c.billable, estimate := c.estimate, due := c.due, key := c.key,
    required := c.required, pool := c.pool, state := c.state, reissues := c.reissues,
    final := c.final, merged := c.merged, noOffer := c.noOffer }

/-- The reply item of a chunk as it stands now. -/
def State.summaryItems (s : State) (n : ChunkName) : List Item :=
  match s.chunk? n with
  | some c => [.chunk c.summary]
  | none => []

/-- The take summary (R164). -/
def Take.summary (t : Take) : TakeSummary :=
  { id := t.id, matter := t.matter, action := t.action, exported := t.exported,
    offRecordOpen := t.offRecordOpen, deferred := t.deferred, state := t.state,
    recPort := t.recPort, station := t.station, openedAt := t.openedAt, closedAt := t.closedAt,
    endTime := t.endTime, restrictOpen := t.restrictOpen, cursor := t.cursor,
    nextOrdinal := t.nextOrdinal, chunksMade := t.chunksMade,
    chunksFinished := t.chunksFinished, damagedSeen := t.damagedSeen, readers := t.readers }

/-! ### Pools -/

/-- The record of a pool. -/
def Pools.get (ps : Pools) : PoolId → Pool
  | .a => ps.a
  | .b => ps.b
  | .c => ps.c
  | .d => ps.d

/-- Replace the record of a pool. -/
def Pools.set (ps : Pools) : PoolId → Pool → Pools
  | .a, q => { ps with a := q }
  | .b, q => { ps with b := q }
  | .c, q => { ps with c := q }
  | .d, q => { ps with d := q }

/-- The record of a pool. -/
def State.pool (s : State) (k : PoolId) : Pool := s.pools.get k

/-- Replace the record of a pool. -/
def State.setPool (s : State) (k : PoolId) (q : Pool) : State := { s with pools := s.pools.set k q }

/-! ### Reset and events -/

/-- An event or frame reaches the part only while the reset pin is not held (R165). -/
def State.running (s : State) (f : State → State) : Host.Outcome State Fault Refusal :=
  .next (if s.resetHeld then s else f s)

end Sys2Proof.Machine
end

