-- ==== Sys2Proof/Machine/Operands.lean ====
section
/-!
DEFINITION. Sys2Proof/Machine/Operands.lean: every operand form of a command (11.3): the codes of the encoding
table, clamping and rounding.  A code outside its set reads as none; the owner refuses it with NO_SUCH (R167).
-/

namespace Sys2Proof.Machine

/-- The nearest value of `lo..hi`. -/
def clamp (lo hi n : Nat) : Nat := if n < lo then lo else if hi < n then hi else n

/-- Rounded down to even. -/
def even (n : Nat) : Nat := n / 2 * 2

/-- Pool code 1..4. -/
def poolOf : Nat → Option PoolId
  | 1 => some .a
  | 2 => some .b
  | 3 => some .c
  | 4 => some .d
  | _ => none

/-- Target code: a pool, or 5 for PARK (the inner none). -/
def targetOf : Nat → Option (Option PoolId)
  | 5 => some none
  | n => (poolOf n).map some

/-- The roles a station may announce (R148): READER, code 4, is not one of them. -/
def announcedRole : Nat → Option Role
  | 1 => some .recorder
  | 2 => some .typist
  | 3 => some .desk
  | _ => none

/-- enabled, WHOLE and re-offer: 0 no, 1 yes. -/
def yesNo : Nat → Option Bool
  | 0 => some false
  | 1 => some true
  | _ => none

/-- Filter kind code. -/
def filterKindOf : Nat → Option FilterKind
  | 1 => some .range
  | 2 => some .mask
  | 3 => some .pair
  | _ => none

/-- Discipline code. -/
def disciplineOf : Nat → Option Discipline
  | 1 => some .arrival
  | 2 => some .urgency
  | _ => none

/-- MARK kind code, as the cue kind it places. -/
def markKind : Nat → Option CueKind
  | 1 => some .speaker
  | 2 => some .exhibit
  | 3 => some .note
  | _ => none

/-- SEEK_CUE directions. -/
inductive Direction
  | next | previous
  deriving DecidableEq, Repr

/-- SEEK_CUE direction code. -/
def directionOf : Nat → Option Direction
  | 1 => some .next
  | 2 => some .previous
  | _ => none

/-- READBACK_BEGIN target forms (R133). -/
inductive TargetForm
  | abs | back | cue
  deriving DecidableEq, Repr

/-- READBACK_BEGIN target form code. -/
def targetForm : Nat → Option TargetForm
  | 1 => some .abs
  | 2 => some .back
  | 3 => some .cue
  | _ => none

/-- The code of a cue kind, 1..15 in table order (11.4). -/
def CueKind.number : CueKind → Nat
  | .speaker => 1
  | .exhibit => 2
  | .note => 3
  | .autoPause => 4
  | .pause => 5
  | .resume => 6
  | .offRecordBegin => 7
  | .offRecordEnd => 8
  | .restrictBegin => 9
  | .restrictEnd => 10
  | .readbackBegin => 11
  | .readbackEnd => 12
  | .gap => 13
  | .linkQuiet => 14
  | .takeLimit => 15

/-- A kind set names a kind: bit (kind − 1). -/
def kindIn (kinds : Nat) (k : CueKind) : Bool := kinds.testBit (k.number - 1)

/-- A kind set with no bit beyond the fifteen kinds (R167). -/
def kindSetOk (kinds : Nat) : Bool := kinds < 2 ^ 15

/-- A notice mask with no bit beyond the eighteen notices (R167). -/
def maskOk (mask : Nat) : Bool := mask < 2 ^ 18

/-- The list from operand START (11.3). -/
def listStart : Nat := 0xFFFFFFFF

end Sys2Proof.Machine
end

