-- ==== Sys2Proof/Machine/Flags.lean ====
section
/-!
DEFINITION. Sys2Proof/Machine/Flags.lean: every flag the part computes: the low flag of the store, the warning
flag of a port and its error count, and the discard flag of a recorder port.
-/

namespace Sys2Proof.Machine

/-- The test of the free count against the watermark (R57). -/
def State.testLow (s : State) : State :=
  let n := s.free.count
  if !s.lowFlag && n ≤ s.watermark then
    State.notifyEach { s with lowFlag := true } (s.portsOf [.desk, .recorder, .reader]) (.storeLow n)
  else if s.lowFlag && s.watermark + 64 < n then
    State.notifyEach { s with lowFlag := false } (s.portsOf [.desk, .recorder, .reader])
      (.storeRecovered n)
  else s

/-- The test of a port's error count after each change: warning and warning ended (R146).  The fault at 255
is carried out by the bad frame that reaches it. -/
def State.testErrors (s : State) (p : PortNo) : State :=
  let l := s.link p
  if 96 ≤ l.errorCount && !l.warning then
    (s.setLink p { l with warning := true }).notify p (.linkWarning l.errorCount)
  else if l.errorCount < 96 && l.warning then s.setLink p { l with warning := false }
  else s

/-- The discard flag is cleared (R30). -/
def State.clearDiscard (s : State) (p : PortNo) : State :=
  s.setIntake p { s.intake p with discard := false }

/-- An audio frame is discarded: with the flag clear the recorder is told once and the flag is set (R30). -/
def State.discardAudio (s : State) (p : PortNo) (take : Option Nat) : State :=
  if (s.intake p).discard then s
  else (s.setIntake p { s.intake p with discard := true }).notify p (.audioDiscarded take)

end Sys2Proof.Machine
end

