-- ==== Sys2Proof/Machine/Cues.lean ====
section
/-!
DEFINITION. Sys2Proof/Machine/Cues.lean: the cue pool, cue placement and the spans read from a cue list
(1.3 to 1.5).
-/

namespace Sys2Proof.Machine

/-- The pool entries on some take's cue list. -/
def State.usedCues (s : State) : List Nat := s.takes.flatMap (fun e => e.2.cues.map (·.index))

/-- The cue pool's free count (1.4). -/
def State.cueFree (s : State) : Nat := Config.cuePool - s.usedCues.length

/-- The free pool entry with the lowest cue index (R11 step 1). -/
def State.lowestCue (s : State) : Option Nat := firstFree s.usedCues Config.cuePool 0

/-- Insert after the last entry whose time is at or before the new cue's (R11 step 4). -/
def insertCue (new : Cue) : List Cue → List Cue
  | [] => [new]
  | d :: r => if (d :: r).any (fun e => e.time ≤ new.time) then d :: insertCue new r else new :: d :: r

/-- Place a cue that the pool has admitted (R11).  The cue arrival counter stops at its top value. -/
def State.placeCue (s : State) (take time : Nat) (kind : CueKind) (value : Option Nat)
    (origin : Origin) : State :=
  match s.lowestCue with
  | none => s
  | some i =>
    State.updTake { s with cueArrival := min (s.cueArrival + 1) Config.top32 } take
      (fun t => { t with
        cues := insertCue { index := i, time := time, kind := kind, arrival := s.cueArrival,
                            value := value, origin := origin } t.cues })

/-- The pool admits a closing cue: at least one entry free (R13). -/
def State.admitsClosing (s : State) : Bool := 1 ≤ s.cueFree

/-- The pool admits a cue that is not a closing cue: more than 64 free (R13). -/
def State.admitsOrdinary (s : State) : Bool := Config.cueReserve < s.cueFree

/-- The pool admits the two cues of a desk's span: more than 65 free (R13). -/
def State.admitsSpan (s : State) : Bool := Config.cueReserve + 1 < s.cueFree

/-- Place a closing cue, or none with the reserve spent (R14). -/
def State.placeClosing (s : State) (take time : Nat) (kind : CueKind) (value : Option Nat)
    (origin : Origin) : State :=
  if s.admitsClosing then s.placeCue take time kind value origin else s

/-- Place a cue whose event takes effect with or without it (PAUSE, RESUME, READBACK_BEGIN, AUTO_PAUSE; R13). -/
def State.placeIfAdmitted (s : State) (take time : Nat) (kind : CueKind) (value : Option Nat)
    (origin : Origin) : State :=
  if s.admitsOrdinary then s.placeCue take time kind value origin else s

/-- The index a placement by `placeClosing` takes, for a reply that names it: none when not placed. -/
def State.closingIndex (s : State) : Option Nat := if s.admitsClosing then s.lowestCue else none

/-- The index a placement by `placeIfAdmitted` takes, for a reply that names it: none when not placed. -/
def State.ordinaryIndex (s : State) : Option Nat := if s.admitsOrdinary then s.lowestCue else none

/-- Break cues: where the Split Engine may cut (R12, the kind table of 1.3). -/
def CueKind.isBreak : CueKind → Bool
  | .speaker | .autoPause | .pause | .offRecordBegin | .offRecordEnd | .restrictBegin
  | .restrictEnd => true
  | .exhibit | .note | .resume | .readbackBegin | .readbackEnd | .gap | .linkQuiet | .takeLimit => false

/-- Cues of a RESTRICT or OFF_RECORD kind, whose placement always signals the Split Engine (R12). -/
def CueKind.isSpan : CueKind → Bool
  | .offRecordBegin | .offRecordEnd | .restrictBegin | .restrictEnd => true
  | .speaker | .exhibit | .note | .autoPause | .pause | .resume | .readbackBegin | .readbackEnd
  | .gap | .linkQuiet | .takeLimit => false

/-! ### Spans -/

/-- A span read from a begin cue and the end that names it (R15). -/
structure Span where
  level : Nat
  start : Nat
  stop : Nat
  deriving DecidableEq, Repr

/-- The time of the end cue of kind `ending` that names the begin of index `i`. -/
def endOf (cues : List Cue) (ending : CueKind) (i : Nat) : Option Nat :=
  (cues.find? (fun e => e.kind = ending && e.value = some i)).map (·.time)

/-- The spans of one kind; a begin that no end names reaches `openEnd` (R15). -/
def spansOf (cues : List Cue) (beginning ending : CueKind) (openEnd : Nat) : List Span :=
  (cues.filter (fun b => b.kind = beginning)).map (fun b =>
    { level := b.value.getD 0, start := b.time, stop := (endOf cues ending b.index).getD openEnd })

/-- Off-record spans, an open one ending at `openEnd`. -/
def Take.offRecordSpans (t : Take) (openEnd : Nat) : List Span :=
  spansOf t.cues .offRecordBegin .offRecordEnd openEnd

/-- Restricted spans, an open one reaching E. -/
def Take.restrictedSpans (t : Take) : List Span :=
  spansOf t.cues .restrictBegin .restrictEnd t.endTime

/-- The greatest of a list of levels, 0 for none. -/
def highest (levels : List Nat) : Nat := levels.foldr max 0

/-- The effective restriction level at an instant (R15). -/
def Take.levelAt (t : Take) (time : Nat) : Nat :=
  highest ((t.restrictedSpans.filter (fun x => x.start ≤ time && time < x.stop)).map (·.level))

/-- Two half-open spans share an instant. -/
def overlaps (a b c d : Nat) : Bool := max a c < min b d

/-- The highest effective restriction level over [start, stop) (R72). -/
def Take.levelOver (t : Take) (start stop : Nat) : Nat :=
  highest ((t.restrictedSpans.filter (fun x => overlaps x.start x.stop start stop)).map (·.level))

/-- The cue index of the open off-record begin: a begin that no end names (R15, R16). -/
def Take.openOffRecord (t : Take) : Option Nat :=
  (t.cues.find? (fun b => b.kind = .offRecordBegin &&
    (endOf t.cues .offRecordEnd b.index).isNone)).map (·.index)

end Sys2Proof.Machine
end

