-- ==== Sys2Proof/Machine/Store.lean ====
section
/-!
DEFINITION. Sys2Proof/Machine/Store.lean: the Dictation Store Controller (Chapter 3): records and check values,
assembly buffers as the store sees them, the tenure arbiter, and the requests that enter it.
-/

namespace Sys2Proof.Machine

/-! ### Records and blocks -/

/-- Bytes of a record (R33). -/
def Rec.size : Rec → Nat
  | .speech _ => 42
  | .silence _ => 2

/-- Take time of a record, cs (R33). -/
def Rec.duration : Rec → Nat
  | .speech _ => 2
  | .silence n => 2 * n

/-- Bytes used by the records of a block. -/
def recsSize (rs : List Rec) : Nat := (rs.map Rec.size).sum

/-- Duration of the records of a block. -/
def recsDuration (rs : List Rec) : Nat := (rs.map Rec.duration).sum

/-- Append a record to an open block: silence joins a silence record while the sum of counts is at most
250; otherwise the record must fit in 4,096 bytes (R33).  None: it does not fit. -/
def appendRec (rs : List Rec) (r : Rec) : Option (List Rec) :=
  match rs.getLast?, r with
  | some (.silence m), .silence n =>
    if m + n ≤ 250 then some (rs.dropLast ++ [.silence (m + n)])
    else if recsSize rs + r.size ≤ Config.blockBytes then some (rs ++ [r]) else none
  | _, _ => if recsSize rs + r.size ≤ Config.blockBytes then some (rs ++ [r]) else none

/-- High byte, low byte. -/
def bytes16 (w : BitVec 16) : List Byte := [w.extractLsb' 8 8, w.extractLsb' 0 8]

/-- The bytes of a record: its 2-byte head (a free value, log 3) and, for speech, the coded bytes. -/
def Rec.bytes : Rec → List Byte
  | .speech c => bytes16 Config.speechHead ++ c.toArray.toList
  | .silence n => bytes16 (Config.silenceHead n)

/-- The bytes used of a block holding these records. -/
def recsBytes (rs : List Rec) : List Byte := rs.flatMap Rec.bytes

/-- One bit of the cyclic check x^16 + x^12 + x^5 + 1 (R46). -/
def crcBit (reg : BitVec 16) (bit : Bool) : BitVec 16 :=
  if reg.msb != bit then (reg <<< 1) ^^^ 0x1021#16 else reg <<< 1

/-- One byte of the check, most significant bit first (R46). -/
def crcByte (reg : BitVec 16) (b : Byte) : BitVec 16 :=
  [7, 6, 5, 4, 3, 2, 1, 0].foldl (fun r i => crcBit r (b.getLsbD i)) reg

/-- The check of a run of bytes: register all ones at the start, no final inversion (R46). -/
def crc (bs : List Byte) : BitVec 16 := bs.foldl crcByte 0xFFFF#16

/-- The block after the DRAM has changed some of its bytes used (R46, note); bytes beyond the bytes used
are read by nothing. -/
def Stored.upset (b : Stored) (us : List Upset) : Stored :=
  us.foldl (fun b u =>
    if u.offset < b.bytes.length then
      { b with bytes := b.bytes.set u.offset u.byte }
    else b) b

/-- 40 coded bytes from the front of a byte list, or `c` when it is shorter. -/
def codedFrom (bs : List Byte) (c : Coded) : Coded :=
  if h : (bs.take 40).length = 40 then ⟨⟨bs.take 40⟩, h⟩ else c

/-- The records of a block with their coded bytes as they now stand. -/
def reread : List Rec → List Byte → List Rec
  | [], _ => []
  | .speech c :: rs, bs => .speech (codedFrom (bs.drop 2) c) :: reread rs (bs.drop 42)
  | .silence n :: rs, bs => .silence n :: reread rs (bs.drop 2)

/-- The head of every record stands as it was written. -/
def headsKept : List Rec → List Byte → Bool
  | [], _ => true
  | r :: rs, bs => bs.take 2 = r.bytes.take 2 && headsKept rs (bs.drop r.size)

/-- "The block's records as stored" (R52): the records it was written as, with their coded bytes as they stand
now.  Where the head of a record stands otherwise than it was written, a free value (log 4). -/
def Stored.content (b : Stored) : List Rec :=
  if headsKept b.recs b.bytes then reread b.recs b.bytes else Config.reframed b.recs b.bytes

/-! ### Assembly buffers -/

/-- Buffer 0 or 1 of a port. -/
def Intake.buf (i : Intake) (k : Bool) : Buffer := if k then i.buf1 else i.buf0

/-- Replace buffer 0 or 1 of a port. -/
def State.setBuf (s : State) (p : PortNo) (k : Bool) (b : Buffer) : State :=
  s.setIntake p (if k then { s.intake p with buf1 := b } else { s.intake p with buf0 := b })

/-- The block a buffer stages. -/
def Buffer.block? : Buffer → Option Nat
  | .empty => none
  | .assembling b _ _ _ => some b
  | .writing b _ _ _ => some b

/-- The records in a buffer. -/
def Buffer.recs : Buffer → List Rec
  | .empty => []
  | .assembling _ _ _ rs => rs
  | .writing _ _ _ rs => rs

/-- The buffer is the open block of the take. -/
def Buffer.isOpenFor (b : Buffer) (take : Nat) : Bool :=
  match b with
  | .assembling _ t _ _ => t = take
  | _ => false

/-- Which buffer of a port is the open block of a take. -/
def State.openBuf (s : State) (p : PortNo) (take : Nat) : Option Bool :=
  if (s.intake p).buf0.isOpenFor take then some false
  else if (s.intake p).buf1.isOpenFor take then some true
  else none

/-- The port whose buffer is the open block of a take (a take has at most one in the part, 2.3). -/
def State.openPort (s : State) (take : Nat) : Option PortNo :=
  allPorts.find? (fun p => (s.openBuf p take).isSome)

/-- An EMPTY buffer of a port, buffer 0 first (R29). -/
def State.emptyBuf (s : State) (p : PortNo) : Option Bool :=
  if (s.intake p).buf0 = .empty then some false
  else if (s.intake p).buf1 = .empty then some true
  else none

/-- The records of a block staged in a buffer of a port. -/
def State.stagedRecs (s : State) (p : PortNo) (block : Nat) : List Rec :=
  if (s.intake p).buf0.block? = some block then (s.intake p).buf0.recs
  else if (s.intake p).buf1.block? = some block then (s.intake p).buf1.recs
  else []

/-! ### Resolving a read -/

/-- The duration of a chain's block: recorded, or of the records in its buffer while ASSEMBLING (R43). -/
def State.blockDuration (s : State) (block : Nat) : Nat :=
  match Table.find s.directory block with
  | none => 0
  | some e =>
    match e.duration, e.port with
    | some d, _ => d
    | none, some p => recsDuration (s.stagedRecs p block)
    | none, none => 0

/-- The content a resolved block will be served from, by its state at grant (R52). -/
def State.sourceOf (s : State) (block : Nat) : Source :=
  match Table.find s.directory block with
  | none => .nothing
  | some e =>
    match e.state, e.port with
    | .stored, _ => .stored
    | .damaged, _ => .damaged
    | _, some p => .buffered (s.stagedRecs p block)
    | _, none => .nothing

/-- The block of a chain that a time resolves to: the first whose span ends after it (R51). -/
def State.resolve (s : State) (chain : List (Nat × Nat)) (time : Nat) : Option (Nat × Nat) :=
  chain.find? (fun e => time < e.2 + s.blockDuration e.1)

/-- The tenure of a granted read: block, result span and source, as the chain stands at the grant (R51). -/
def State.readTenure (s : State) (r : ReadReq) : Tenure :=
  match s.take? r.take with
  | none => .read r none r.time r.time r.time .nothing false
  | some t =>
    match s.resolve t.chain r.time with
    | none => .read r none r.time t.endTime r.time .nothing false
    | some (b, start) =>
      .read r (some b) (if start ≤ r.time then start else r.time) (start + s.blockDuration b) start
        (s.sourceOf b) false

/-! ### The arbiter -/

/-- The ports after `last` in ascending order, passing from 15 to 0, `last` itself at the end (R48). -/
def portsAfter (last : PortNo) : List PortNo := allPorts.map (fun k => last + 1 + k)

/-- The next port to be granted among those waiting (R48). -/
def nextPort (last : PortNo) (waiting : List PortNo) : Option PortNo :=
  (portsAfter last).find? (fun p => waiting.contains p)

/-- The waiting reads of one class. -/
def Arbiter.readsOf (a : Arbiter) (k : CtxKind) : List ReadReq := a.reads.filter (fun r => r.kind = k)

/-- Grant a read: it leaves its class and is in tenure (R47, R51). -/
def State.grantRead (s : State) (r : ReadReq) : State :=
  { s with arbiter := { s.arbiter with reads := s.arbiter.reads.erase r, tenure := some (s.readTenure r) } }

/-- Record the last readback port granted. -/
def Arbiter.markReader (a : Arbiter) (p : PortNo) : Arbiter := { a with lastReader := p }

/-- Record the last typist port granted. -/
def Arbiter.markTypist (a : Arbiter) (p : PortNo) : Arbiter := { a with lastTypist := p }

/-- Record the last exporting port granted. -/
def Arbiter.markExport (a : Arbiter) (p : PortNo) : Arbiter := { a with lastExport := p }

/-- Choose and grant a read of a class, if one waits there (R48). -/
def State.grantClass (s : State) (k : CtxKind) (last : PortNo)
    (mark : Arbiter → PortNo → Arbiter) : Option State :=
  match nextPort last ((s.arbiter.readsOf k).map (·.port)) with
  | none => none
  | some p =>
    match (s.arbiter.readsOf k).find? (fun r => r.port = p) with
    | none => none
    | some r =>
      let g := s.grantRead r
      some { g with arbiter := mark g.arbiter p }

/-- Choose and grant a write, if one waits: the chosen port's oldest (R48). -/
def State.grantWrite (s : State) : Option State :=
  match nextPort s.arbiter.lastWrite (s.arbiter.writes.map (·.port)) with
  | none => none
  | some p =>
    match s.arbiter.writes.find? (fun r => r.port = p) with
    | none => none
    | some r =>
      some { s with arbiter := { s.arbiter with
        writes := s.arbiter.writes.erase r, tenure := some (.write r), lastWrite := p } }

/-- Grant the oldest release step, if one waits (R48). -/
def State.grantRelease (s : State) : Option State :=
  match s.arbiter.releases with
  | [] => none
  | t :: rest =>
    some { s with arbiter := { s.arbiter with releases := rest, tenure := some (.release t) } }

/-- Grant the next request while the store port is idle: the lowest class that waits, round robin within
classes 1 to 4 (R47, R48).  With nothing waiting the port stays idle. -/
def State.grant (s : State) : State :=
  if s.arbiter.tenure.isSome then s
  else
    (s.grantWrite <|>
      s.grantClass .reader s.arbiter.lastReader Arbiter.markReader <|>
      s.grantClass .typist s.arbiter.lastTypist Arbiter.markTypist <|>
      s.grantClass .exporting s.arbiter.lastExport Arbiter.markExport <|>
      s.grantRelease).getD s

/-- The store port is idle again after a completion. -/
def State.endTenure (s : State) : State := { s with arbiter := { s.arbiter with tenure := none } }

/-! ### Requests -/

/-- An open block closes: its entry and buffer become WRITING and its write is handed to class 1
(R29, R49). -/
def State.closeBlock (s : State) (p : PortNo) (k : Bool) : State :=
  match (s.intake p).buf k with
  | .assembling b t start rs =>
    let s := s.setBuf p k (.writing b t start rs)
    let s := { s with
      directory := Table.change s.directory b (fun e => { e with
        state := .writing, duration := some (recsDuration rs), bytesUsed := some (recsSize rs) })
      arbiter := { s.arbiter with
        writes := s.arbiter.writes ++ [
          { port := p, buf := k, block := b, start := start,
            duration := recsDuration rs, bytesUsed := recsSize rs : WriteReq }] } }
    s.grant
  | _ => s

/-- Close the open block of a take, wherever it is staged (R6 step 5, R39). -/
def State.closeOpenBlock (s : State) (take : Nat) : State :=
  match s.openPort take with
  | none => s
  | some p =>
    match s.openBuf p take with
    | none => s
    | some k => s.closeBlock p k

/-- Ask for a read; a read of the same port still waiting is replaced (R50). -/
def State.requestRead (s : State) (r : ReadReq) : State :=
  State.grant { s with arbiter := { s.arbiter with
    reads := s.arbiter.reads.filter (fun q => q.port ≠ r.port) ++ [r] } }

/-- A tenure's read of the port becomes stale (R55). -/
def Tenure.staleFor (p : PortNo) : Tenure → Tenure
  | .read r b start stop t0 src stale => .read r b start stop t0 src (stale || r.port = p)
  | .write r => .write r
  | .release t => .release t

/-- Withdraw a port's read: removed while waiting, stale while in tenure (R55). -/
def State.withdrawRead (s : State) (p : PortNo) : State :=
  { s with arbiter := { s.arbiter with
      reads := s.arbiter.reads.filter (fun q => q.port ≠ p)
      tenure := s.arbiter.tenure.map (Tenure.staleFor p) } }

/-- Hand over one release step for each block of a take's chain (R56). -/
def State.requestRelease (s : State) (take steps : Nat) : State :=
  State.grant { s with arbiter := { s.arbiter with
    releases := s.arbiter.releases ++ List.replicate steps take } }

/-- Allocate the head of the free list to a record of a take (R45), the take's chain growing by it. -/
def State.allocate (s : State) (p : PortNo) (k : Bool) (take start : Nat) (r : Rec) : State :=
  match s.free.pop with
  | none => s
  | some (b, rest) =>
    let s := { s with
      free := rest
      directory := Table.put s.directory b
        { state := .assembling, owner := take, port := some p, start := start, duration := none,
          bytesUsed := none, check := none } }
    let s := s.setBuf p k (.assembling b take start [r])
    let s := s.updTake take (fun t => { t with chain := t.chain ++ [(b, start)] })
    s.testLow

end Sys2Proof.Machine
end

