-- ==== Sys2Proof/Machine/Pools.lean ====
section
/-!
DEFINITION. Sys2Proof/Machine/Pools.lean: the Hand-off Unit's pools (Chapter 5): queue order, ready lists, the
offer pass, the ends of an offer, and the completion log (6.7).
-/

namespace Sys2Proof.Machine

/-! ### Queues -/

/-- The queue order of a discipline (R78). -/
def Discipline.before (d : Discipline) (x y : Chunk) : Bool :=
  match d with
  | .arrival => x.arrival < y.arrival
  | .urgency => x.key < y.key || (x.key = y.key && x.arrival < y.arrival)

/-- Insert a chunk at its place in an ordered queue. -/
def insertChunk (d : Discipline) (c : Chunk) : List Chunk → List Chunk
  | [] => [c]
  | y :: r => if d.before c y then c :: y :: r else y :: insertChunk d c r

/-- Chunks in the order of a discipline. -/
def sortChunks (d : Discipline) (cs : List Chunk) : List Chunk :=
  cs.foldl (fun acc c => insertChunk d c acc) []

/-- A chunk stands in a pool's queue while it is PENDING or OFFERED in that pool (R78). -/
def Chunk.inQueue (c : Chunk) (k : PoolId) : Bool :=
  c.pool = some k && (c.state = .pending || c.state = .offered)

/-- The pool's queue: exactly its PENDING and OFFERED chunks, in the order of its discipline (R78).  Places
are fixed by arrival and key, so joining, leaving and re-sorting (R80) are this one computation. -/
def State.queue (s : State) (k : PoolId) : List Chunk :=
  sortChunks (s.pool k).discipline (s.chunks.filter (fun c => c.inQueue k))

/-! ### Ready lists -/

/-- Remove a port from a pool's ready list. -/
def Pool.dropReady (q : Pool) (p : PortNo) : Pool := { q with ready := q.ready.filter (fun r => r ≠ p) }

/-- A port leaves whatever ready list it stands in (R82). -/
def State.leaveReady (s : State) (p : PortNo) : State :=
  { s with pools := { a := s.pools.a.dropReady p, b := s.pools.b.dropReady p,
                      c := s.pools.c.dropReady p, d := s.pools.d.dropReady p } }

/-- A port is appended at the tail of a pool's ready list, leaving any place it had (R81). -/
def State.joinReady (s : State) (p : PortNo) (k : PoolId) : State :=
  let s := s.leaveReady p
  s.setPool k { s.pool k with ready := (s.pool k).ready ++ [p] }

/-- The pool whose ready list holds the port (5.3). -/
def State.readyPool (s : State) (p : PortNo) : Option PoolId :=
  [PoolId.a, .b, .c, .d].find? (fun k => (s.pool k).ready.contains p)

/-! ### Holds seen from a link -/

/-- The chunk a link holds: HELD with the port as holder port (R94). -/
def State.heldBy (s : State) (p : PortNo) : Option Chunk :=
  s.chunks.find? (fun c => c.state = .held && c.holderPort = some p)

/-- The lapsed hold of a link: LAPSING with the attached station as holder (R94). -/
def State.lapsedHoldOf (s : State) (p : PortNo) : Option Chunk :=
  s.chunks.find? (fun c => c.state = .lapsing && c.holderStation.isSome &&
    c.holderStation = (s.link p).station)

/-- READY and CLAIM are refused with HOLDING for either (R94). -/
def State.isHolding (s : State) (p : PortNo) : Bool :=
  (s.heldBy p).isSome || (s.lapsedHoldOf p).isSome

/-! ### Offers -/

/-- The first ready port cleared for the chunk that is not its last decliner (R84 step 2). -/
def State.pairPort (s : State) (k : PoolId) (c : Chunk) : Option PortNo :=
  (s.pool k).ready.find? (fun p =>
    c.required ≤ (s.link p).clearance && c.lastDecliner ≠ some p)

/-- Send a port the CHUNK_OFFER of a chunk as it stands (R84 step 5). -/
def State.sendOffer (s : State) (p : PortNo) (n : ChunkName) : State :=
  match s.chunk? n with
  | some c => s.notify p (.chunkOffer c.summary)
  | none => s

/-- Offer a chunk to a port (R84). -/
def State.makeOffer (s : State) (p : PortNo) (n : ChunkName) : State :=
  let s := s.leaveReady p
  let s := s.updChunk n (fun c => { c with state := .offered, offeree := some p })
  let s := s.setHandoff p { s.handoff p with
    offer := some { chunk := n, timeout := s.offerTimeout }, lapsed := none }
  s.sendOffer p n

/-- One chunk of the walk (R84 steps 2 and 3). -/
def State.offerOne (k : PoolId) (s : State) (c : Chunk) : State :=
  match s.pairPort k c with
  | some p => s.makeOffer p c.name
  | none => s

/-- The offer pass: one walk of the pool's queue over its PENDING chunks without NO_OFFER (R84). -/
def State.offerPass (s : State) (k : PoolId) : State :=
  ((s.queue k).filter (fun c => c.state = .pending && !c.noOffer)).foldl (State.offerOne k) s

/-- The pass of a pool that may be absent. -/
def State.offerPass? (s : State) (k : Option PoolId) : State :=
  match k with
  | some k => s.offerPass k
  | none => s

/-- The chunk of an ended offer is PENDING again at its place. -/
def Chunk.unoffer (c : Chunk) : Chunk := { c with state := .pending, offeree := none }

/-- End a port's offer, changing its chunk by `f` (R89 steps 1 to 4). -/
def State.endOffer (s : State) (p : PortNo) (f : Chunk → Chunk) (noticed : Bool) : State :=
  match (s.handoff p).offer with
  | none => s
  | some o =>
    let s := s.setHandoff p { s.handoff p with offer := none }
    let s := s.updChunk o.chunk f
    if noticed then s.notify p (.offerWithdrawn o.chunk) else s

/-- The pool a port's outstanding offer came from. -/
def State.offerPool (s : State) (p : PortNo) : Option PoolId :=
  ((s.handoff p).offer.bind (fun o => s.chunk? o.chunk)).bind (·.pool)

/-- A port is appended to the ready list of a pool that may be absent. -/
def State.rejoin (s : State) (p : PortNo) (k : Option PoolId) : State :=
  match k with
  | some k => s.joinReady p k
  | none => s

/-- Withdraw a port's offer, its chunk going back to PENDING, with the pass of R89 step 6. -/
def State.withdrawOffer (s : State) (p : PortNo) (noticed rejoins : Bool) : State :=
  let k := s.offerPool p
  if (s.handoff p).offer.isNone then s
  else
    let s := s.endOffer p Chunk.unoffer noticed
    let s := if rejoins then s.rejoin p k else s
    s.offerPass? k

/-- Raise a chunk's required clearance after a desk's span (R19, R91). -/
def State.raiseChunk (level : Nat) (s : State) (n : ChunkName) : State :=
  match s.chunk? n with
  | none => s
  | some c =>
    if level ≤ c.required then s
    else
      let s := s.updChunk n (fun c => { c with required := level })
      match c.state, c.offeree with
      | .offered, some p => if (s.link p).clearance < level then s.withdrawOffer p true true else s
      | _, _ => s

/-! ### The completion log -/

/-- Append a record, or drop it and set the overrun flag; a record joining an empty log sends
LOG_PENDING (R110). -/
def State.logWrite (s : State) (r : LogRec) : State :=
  if s.log.length < Config.logRecords then
    let t := { s with log := s.log ++ [r] }
    if s.log.isEmpty then t.notifyDesks (.logPending 1) else t
  else { s with overrun := true }

end Sys2Proof.Machine
end

