-- ==== Sys2Proof/Machine/Split.lean ====
section
/-!
DEFINITION. Sys2Proof/Machine/Split.lean: the Split Engine (Chapter 4): pricing, rolling cuts, deferral and the
final split.
-/

namespace Sys2Proof.Machine

/-! ### Parameters and pricing -/

/-- M, the minimum tail, derived from L (4.1). -/
def Pool.minimumTail (q : Pool) : Nat := q.length / 4

/-- The pool whose parameters a cut of the take reads: its target, or A for PARK (R60). -/
def State.poolOfTake (s : State) (t : Take) : Pool := s.pool (t.action.target.getD .a)

/-- Length of the intersection of two half-open spans. -/
def common (a b c d : Nat) : Nat := min b d - max a c

/-- Billable length of the own span [start, stop): its length less off-record time, an open off-record span
ending at the own end (R70). -/
def Take.billable (t : Take) (start stop : Nat) : Nat :=
  (stop - start) - ((t.offRecordSpans stop).map (fun x => common x.start x.stop start stop)).sum

/-- estimate = ceiling(b × q / 400) seconds (R71). -/
def estimateOf (billable ratio : Nat) : Nat := (billable * ratio + 399) / 400

/-- due = T + a, at most the top of the clock (R71). -/
def dueOf (clock turnaround : Nat) : Nat := min (clock + turnaround) Config.top32

/-- key = due − estimate, 0 when the estimate exceeds the due (R71). -/
def keyOf (due estimate : Nat) : Nat := due - estimate

/-- Required clearance: the greater of the floor and the highest level over the play span (R72). -/
def Take.requiredOver (t : Take) (playStart ownEnd : Nat) : Nat :=
  max t.action.floor (t.levelOver playStart ownEnd)

/-! ### The cut test's conditions -/

/-- A rolling cut is due: not WHOLE and E ≥ C + L + W (R62). -/
def State.rollingDue (s : State) (t : Take) : Bool :=
  !t.action.whole && t.cursor + (s.poolOfTake t).length + (s.poolOfTake t).window ≤ t.endTime

/-- The final split is pending: CLOSED with C below E (R61). -/
def Take.finalPending (t : Take) : Bool := t.state = .closed && t.cursor < t.endTime

/-- A chunk can be made now: a free record, an arrival value, and the deferral list empty unless this is the
list's service (R64). -/
def State.canMake (s : State) (service : Bool) : Bool :=
  s.chunks.length < Config.chunkRecords && s.arrivalSeq < Config.top32 &&
    (s.deferral.isEmpty || service)

/-- The reason a cut is deferred (R65); at the top of the arrival sequence it is SEQUENCE_END (R73). -/
def State.deferReason (s : State) : DeferReason :=
  if s.arrivalSeq < Config.top32 then .tableFull else .sequenceEnd

/-! ### Making a chunk -/

/-- Distance between two take times. -/
def distance (a b : Nat) : Nat := (a - b) + (b - a)

/-- The nearer of two candidates to N, the earlier of two at one distance (R63 step 3). -/
def nearer (n : Nat) (x y : Nat) : Nat :=
  if distance x n < distance y n then x
  else if distance y n < distance x n then y
  else min x y

/-- The cut point: the break cue time in [N − W, N + W] nearest N, or N when there is none (R63). -/
def cutPoint (cues : List Cue) (n w : Nat) : Nat :=
  match (cues.filter (fun c => c.kind.isBreak && n - w ≤ c.time && c.time ≤ n + w)).map (·.time) with
  | [] => n
  | x :: xs => xs.foldl (nearer n) x

/-- Create the chunk in the chunk table, PENDING in its pool or PARKED, and run the pass of a PENDING one
(R79, R83).  DESIGN CHOICE (log 36): the pass runs at once, so before the final request of the same cut test;
R68 and R79 allow either order. -/
def State.createChunk (s : State) (c : Chunk) : State :=
  State.offerPass? { s with chunks := s.chunks ++ [c] } c.pool

/-- The chunk record of a cut of a take over own span [start, stop), priced now (R64 step 2, R79). -/
def State.newChunk (s : State) (t : Take) (start stop playStart : Nat) (final : Bool) : Chunk :=
  let b := t.billable start stop
  let e := estimateOf b (s.poolOfTake t).ratio
  let d := dueOf s.clock t.action.turnaround
  { name := { take := t.id, ordinal := t.nextOrdinal }
    ownStart := start, ownEnd := stop, playStart := playStart
    required := t.requiredOver playStart stop
    billable := b, estimate := e, due := d, key := keyOf d e
    pool := t.action.target
    state := if t.action.target.isSome then .pending else .parked
    arrival := s.arrivalSeq
    offeree := none, holderStation := none, holderPort := none, heldSince := none
    savedCursor := none, graceTimer := none, lastDecliner := none
    noOffer := false, recallPending := false, reissues := 0
    final := final, merged := false }

/-- Make a chunk of a take: hand it over, advance the arrival sequence, the cursor, the next ordinal and
chunks made (R64 steps 3 to 6). -/
def State.makeChunk (s : State) (t : Take) (start stop playStart : Nat) (final : Bool) : State :=
  let s := s.createChunk (s.newChunk t start stop playStart final)
  State.updTake { s with arrivalSeq := s.arrivalSeq + 1 } t.id
    (fun t => { t with cursor := stop, nextOrdinal := t.nextOrdinal + 1,
                       chunksMade := t.chunksMade + 1 })

/-- The rolling cut (R63, R64). -/
def State.rollingCut (s : State) (t : Take) : State :=
  let q := s.poolOfTake t
  s.makeChunk t t.cursor (cutPoint t.cues (t.cursor + q.length) q.window) (t.cursor - q.leadIn) false

/-- Defer a cut: set the flag, join the list's tail and tell the desks; a take already flagged is left as
it is (R65). -/
def State.deferCut (s : State) (t : Take) (nominal : Nat) : State :=
  if t.deferred then s
  else
    let r := s.deferReason
    let s := s.updTake t.id (fun t => { t with deferred := true })
    State.notifyDesks { s with deferral := s.deferral ++ [t.id] } (.splitDeferred t.id nominal r)

/-- Make every rolling cut that is due, whole, one after the other, or defer (R61 step 2).  Each cut takes a
chunk record, so 513 rounds never run out. -/
def State.rollingCuts (take : Nat) (service : Bool) : Nat → State → State
  | 0, s => s
  | fuel + 1, s =>
    match s.take? take with
    | none => s
    | some t =>
      if s.rollingDue t then
        if s.canMake service then State.rollingCuts take service fuel (s.rollingCut t)
        else s.deferCut t (t.cursor + (s.poolOfTake t).length)
      else s

/-! ### The final split -/

/-- Merge a short tail into the last chunk: spans, pricing and flags; due, arrival and ordinal are kept
(R68). -/
def State.mergeTail (s : State) (t : Take) (last : Chunk) : State :=
  let b := t.billable last.ownStart t.endTime
  let e := estimateOf b (s.pool (last.pool.getD .a)).ratio
  let s := s.updChunk last.name (fun c => { c with
    ownEnd := t.endTime, billable := b, required := t.requiredOver last.playStart t.endTime,
    estimate := e, key := keyOf c.due e, merged := true, final := true })
  s.updTake t.id (fun t => { t with cursor := t.endTime })

/-- Make the chunk of a final split, or defer it (R69). -/
def State.finalChunk (s : State) (t : Take) (service : Bool) (start playStart : Nat) : State :=
  if s.canMake service then s.makeChunk t start t.endTime playStart true
  else s.deferCut t t.endTime

/-- The final split of a CLOSED take whose rolling cuts are made (R67, R68). -/
def State.finalSplit (s : State) (t : Take) (service : Bool) : State :=
  let q := s.poolOfTake t
  if t.action.whole then s.finalChunk t service 0 0
  else if q.minimumTail ≤ t.endTime - t.cursor || t.chunksMade = 0 then
    s.finalChunk t service t.cursor (t.cursor - q.leadIn)
  else
    match s.chunk? { take := t.id, ordinal := t.nextOrdinal - 1 } with
    | some last =>
      if last.state = .pending || last.state = .parked then s.mergeTail t last
      else s.finalChunk t service t.cursor (t.cursor - q.leadIn)
    | none => s.finalChunk t service t.cursor (t.cursor - q.leadIn)

/-- The final split when it is pending and no rolling cut remains due (R61 step 3). -/
def State.finalStep (s : State) (take : Nat) (service : Bool) : State :=
  match s.take? take with
  | none => s
  | some t => if t.finalPending && !s.rollingDue t then s.finalSplit t service else s

/-- The cut test (R61).  A take in RELEASING is not tested. -/
def State.cutTest (s : State) (take : Nat) (service : Bool) : State :=
  match s.take? take with
  | none => s
  | some t =>
    if t.state = .releasing || (t.deferred && !service) then s
    else (State.rollingCuts take service (Config.chunkRecords + 1) s).finalStep take service

/-- The Take Directory's signal for a placed cue: a break cue at or after C, or any RESTRICT or OFF_RECORD
cue, starts a cut test (R12). -/
def State.signalCue (s : State) (take time : Nat) (kind : CueKind) : State :=
  match s.take? take with
  | none => s
  | some t =>
    if (kind.isBreak && t.cursor ≤ time) || kind.isSpan then s.cutTest take false else s

/-! ### Deferral service -/

/-- A take with nothing left to make: no rolling cut due and no final split pending (R66). -/
def State.caughtUp (s : State) (take : Nat) : Bool :=
  match s.take? take with
  | none => true
  | some t => !s.rollingDue t && !t.finalPending

/-- Serve the deferral list from its head: a take that catches up leaves the list with its flag cleared, and
the next head is served while a record is free (R66). -/
def State.serveDeferral : List Nat → State → State
  | [], s => s
  | take :: rest, s =>
    let s := s.cutTest take true
    if s.caughtUp take then
      let s := State.updTake { s with deferral := s.deferral.filter (fun n => n ≠ take) } take
        (fun t => { t with deferred := false })
      if s.chunks.length < Config.chunkRecords then State.serveDeferral rest s else s
    else s

/-! ### Recompute -/

/-- Reprice one waiting chunk with the ratio of its current pool, A for a PARKED chunk (R74). -/
def State.repriced (s : State) (c : Chunk) : Chunk :=
  let e := estimateOf c.billable (s.pool (c.pool.getD .a)).ratio
  { c with estimate := e, key := keyOf c.due e }

/-- The chunks whose pricing LEAVE_SETUP recomputes (R74). -/
def Chunk.isWaiting (c : Chunk) : Bool :=
  c.state = .pending || c.state = .offered || c.state = .parked

/-- The recompute at leaving setup (R74); a chunk it changes loses the reservations naming it. -/
def State.recompute (s : State) : State :=
  s.chunks.foldl (fun s c =>
    if c.isWaiting && s.repriced c ≠ c then s.updChunk c.name s.repriced else s) s

end Sys2Proof.Machine
end

