-- ==== Sys2Proof/Machine/Playback.lean ====
section
/-!
DEFINITION. Sys2Proof/Machine/Playback.lean: the Playback Unit (Chapter 7): play contexts, reads, frames sent,
silencing, stalls and exports.
-/

namespace Sys2Proof.Machine

/-! ### Contexts -/

/-- Create a port's play context (R113): the take's readers rises by one and the port's last damage
notified becomes absent. -/
def State.createCtx (s : State) (p : PortNo) (kind : CtxKind) (take start stop cursor : Nat)
    (mode : Mode) (closed : Bool) : State :=
  let s := s.setCtx p (some
    { take := take, kind := kind, startBound := start, endBound := stop
      cursor := clamp start stop (even cursor)
      mode := mode, pacing := .onData, stack := [], readAhead := [], outstanding := false
      stretch := false, damagedCount := 0, silenced := false, closedAtBegin := closed })
  let s := s.setLastDamage p none
  s.updTake take (fun t => { t with readers := t.readers + 1 })

/-- Withdraw a context's outstanding read (R55). -/
def State.dropRead (s : State) (p : PortNo) : State :=
  match s.ctx p with
  | none => s
  | some c => (s.withdrawRead p).setCtx p (some { c with outstanding := false })

/-- Remove a port's context: its read is withdrawn, its read-ahead and stack go with it, and the take's
readers falls by one (R114). -/
def State.removeCtx (s : State) (p : PortNo) : State :=
  match s.ctx p with
  | none => s
  | some c =>
    ((s.withdrawRead p).setCtx p none).updTake c.take (fun t => { t with readers := t.readers - 1 })

/-! ### Reads -/

/-- The read time: the end of the last result held, or the cursor when none is held (R121). -/
def Ctx.readTime (c : Ctx) : Nat :=
  match c.readAhead.getLast? with
  | some r => r.stop
  | none => c.cursor

/-- A context asks for a read: it is PLAYING or STALLED, has none outstanding, holds fewer than two results
and has not reached its end bound (R121). -/
def Ctx.wantsRead (c : Ctx) : Bool :=
  c.mode ≠ .stopped && !c.outstanding && c.readAhead.length < Config.readAheadDepth &&
    c.readTime < c.endBound

/-- Ask the store for the read a context wants (R121). -/
def State.askReads (s : State) (p : PortNo) : State :=
  match s.ctx p with
  | none => s
  | some c =>
    if c.wantsRead then
      (s.setCtx p (some { c with outstanding := true })).requestRead
        { port := p, kind := c.kind, take := c.take, time := c.readTime }
    else s

/-- The result held whose span contains the cursor (R121). -/
def Ctx.covering (c : Ctx) : Option ReadResult :=
  c.readAhead.find? (fun r => r.start ≤ c.cursor && c.cursor < r.stop)

/-! ### Frames -/

/-- The coded bytes of the speech record that holds take time `c`, the records laid from `t` (R122). -/
def speechAt : List Rec → Nat → Nat → Option Coded
  | [], _, _ => none
  | .speech b :: rs, t, c => if c < t then none else if c < t + 2 then some b else speechAt rs (t + 2) c
  | .silence n :: rs, t, c => if c < t + 2 * n then none else speechAt rs (t + 2 * n) c

/-- The start of the first speech record at or after `c`. -/
def nextSpeech : List Rec → Nat → Nat → Option Nat
  | [], _, _ => none
  | .speech _ :: rs, t, c => if c ≤ t then some t else nextSpeech rs (t + 2) c
  | .silence n :: rs, t, c => nextSpeech rs (t + 2 * n) c

/-- The level a frame at `time` lies at, and whether it is above the port: its level exceeds the clearance
and the port is not the take's recorder in the READER role (R123). -/
def State.levelOf (s : State) (take time : Nat) : Nat :=
  match s.take? take with
  | some t => t.levelAt time
  | none => 0

/-- The frame at `time` is above the port (R123). -/
def State.isAbove (s : State) (p : PortNo) (c : Ctx) (time : Nat) : Bool :=
  (s.link p).clearance < s.levelOf c.take time && c.kind ≠ .reader

/-- The restriction test of one frame-time: the restricted stretch, its notice on entry, and the export's
silenced mark (R123). -/
def State.markFrame (p : PortNo) (s : State) (time : Nat) : State :=
  match s.ctx p with
  | none => s
  | some c =>
    if s.isAbove p c time then
      let t := s.setCtx p (some { c with
        stretch := true, silenced := c.silenced || c.kind = .exporting })
      if c.stretch then t
      else t.notify p (.restrictedSilenced c.take time (s.levelOf c.take time))
    else s.setCtx p (some { c with stretch := false })

/-- The cursor moves on; results it has passed leave the read-ahead (R121, R122). -/
def Ctx.advance (c : Ctx) (by_ : Nat) : Ctx :=
  { c with cursor := c.cursor + by_,
           readAhead := c.readAhead.filter (fun r => c.cursor + by_ < r.stop) }

/-- Change a port's context, if it has one. -/
def State.updCtx (s : State) (p : PortNo) (f : Ctx → Ctx) : State :=
  match s.ctx p with
  | none => s
  | some c => s.setCtx p (some (f c))

/-- A play context that has reached its end bound sends PLAY_END and becomes STOPPED (R122).
DESIGN CHOICE (log 37): its pacing is on data. -/
def State.endIfDone (s : State) (p : PortNo) : State :=
  match s.ctx p with
  | none => s
  | some c =>
    if c.endBound ≤ c.cursor then
      (s.setCtx p (some { c with mode := .stopped, pacing := .onData, readAhead := [] })).notify p
        (.playEnd c.take c.cursor)
    else s

/-- Send the play frame at the cursor from the result that covers it (R122, R123); the next is due 20 ms
later. -/
def State.sendPlayFrame (s : State) (p : PortNo) (c : Ctx) (r : ReadResult) : State :=
  let speech := if s.isAbove p c c.cursor then none else speechAt r.recs r.recStart c.cursor
  let s := s.markFrame p c.cursor
  let s := s.emit p (match speech with
    | some b => .playSpeech c.take c.cursor b
    | none => .playSilence c.take c.cursor)
  let s := s.updCtx p (fun c => { c.advance 2 with mode := .playing, pacing := .due })
  (s.endIfDone p).askReads p

/-- A context whose stall ends enters a restricted stretch anew when it resumes inside one (R123).  A stall that a
STOP ends is not resumed, and keeps the stretch (DEDUCED, log 40). -/
def Ctx.resumed (c : Ctx) : Ctx := if c.mode = .stalled then { c with stretch := false } else c

/-- Send the frame at the cursor if the read-ahead covers it, when the context waits on data or is stalled
(R122, R123, R124). -/
def State.sendIfCovered (s : State) (p : PortNo) : State :=
  match s.ctx p with
  | none => s
  | some c =>
    if (c.mode = .playing && c.pacing = .onData) || c.mode = .stalled then
      match c.covering with
      | some r => (s.setCtx p (some c.resumed)).sendPlayFrame p c.resumed r
      | none => s
    else s

/-! ### Export -/

/-- Length in frame-times of the export silence at the cursor: up to the next speech record of the result, its
end or the end bound, and at most 250 (R127). -/
def Ctx.silenceRun (c : Ctx) (r : ReadResult) : Nat :=
  let limit := min r.stop c.endBound
  let stop := match nextSpeech r.recs r.recStart c.cursor with
    | some t => min t limit
    | none => limit
  max 1 (min 250 ((stop - c.cursor) / 2))

/-- Send the export frame at the cursor (R127).
DESIGN CHOICE (log 38): a RESTRICTED_SILENCED of a frame-time within an EXPORT_SILENCE goes out before that frame;
no rule orders the two. -/
def State.sendExportFrame (s : State) (p : PortNo) (c : Ctx) (r : ReadResult) : State :=
  match speechAt r.recs r.recStart c.cursor with
  | some b =>
    let above := s.isAbove p c c.cursor
    let s := s.markFrame p c.cursor
    let s := s.emit p
      (if above then .exportSilence c.take c.cursor 1 else .exportSpeech c.take c.cursor b)
    s.updCtx p (fun c => c.advance 2)
  | none =>
    let n := c.silenceRun r
    let s := (List.range n).foldl (fun s i => s.markFrame p (c.cursor + 2 * i)) s
    let s := s.emit p (.exportSilence c.take c.cursor n)
    s.updCtx p (fun c => c.advance (2 * n))

/-- An export reaching its end bound: EXPORT_END, the exported flag, and removal, in that order (R128). -/
def State.completeExport (s : State) (p : PortNo) (c : Ctx) : State :=
  let s := s.notify p (.exportEnd c.take c.endBound c.damagedCount c.silenced)
  let s := if c.closedAtBegin && !c.silenced then
    s.updTake c.take (fun t => { t with exported := true }) else s
  s.removeCtx p

/-- A running export sends frames as long as the read-ahead covers the cursor, completes at its end bound,
and otherwise asks for reads (R127, R128, R121).  Each frame advances the cursor, so a fuel of the cs left
never runs out. -/
def State.runExport (p : PortNo) : Nat → State → State
  | 0, s => s
  | fuel + 1, s =>
    match s.ctx p with
    | none => s
    | some c =>
      if c.endBound ≤ c.cursor then s.completeExport p c
      else
        match c.covering with
        | some r => State.runExport p fuel (s.sendExportFrame p c r)
        | none => s.askReads p

/-- Run a port's export context on from its cursor. -/
def State.continueExport (s : State) (p : PortNo) : State :=
  match s.ctx p with
  | none => s
  | some c => State.runExport p (c.endBound - c.cursor + 1) s

/-! ### Read results -/

/-- A still-wanted result joins the read-ahead; frames that waited for it are sent, and the next read is
asked (R121, R122, R124, R127).  `damaged` counts a result silent because its block is DAMAGED or was found
mismatched. -/
def State.deliver (s : State) (p : PortNo) (r : ReadResult) (damaged : Bool) : State :=
  match s.ctx p with
  | none => s
  | some c =>
    let c := { c with outstanding := false, readAhead := c.readAhead ++ [r] }
    match c.kind with
    | .exporting =>
      (s.setCtx p (some { c with damagedCount := c.damagedCount + (if damaged then 1 else 0) })).continueExport p
    | .typist | .reader => ((s.setCtx p (some c)).sendIfCovered p).askReads p

/-! ### Moves and modes -/

/-- What every accepted move does once the cursor is set (R120): read-ahead flushed and read withdrawn,
restricted stretch no; a moving context waits on data at the new cursor, or ends at the end bound (its pacing
then on data, DESIGN CHOICE, log 37). -/
def State.afterMove (s : State) (p : PortNo) : State :=
  match s.ctx p with
  | none => s
  | some c =>
    let s := s.withdrawRead p
    let c := { c with readAhead := [], outstanding := false, stretch := false }
    if c.mode = .stopped then s.setCtx p (some c)
    else if c.cursor < c.endBound then
      s.setCtx p (some { c with mode := .playing, pacing := .onData })
    else s.setCtx p (some { c with mode := .stopped, pacing := .onData })

/-- What follows the reply of a move: PLAY_END when it stopped at the end bound, or the read at the new
cursor (R120 steps 4 and 5). -/
def State.afterMoveReply (s : State) (p : PortNo) (wasMoving : Bool) : State :=
  match s.ctx p with
  | none => s
  | some c =>
    if wasMoving && c.endBound ≤ c.cursor then s.notify p (.playEnd c.take c.cursor)
    else s.askReads p

/-- Stop a context as STOP does: mode STOPPED, read withdrawn, read-ahead kept (R119, R125).
DESIGN CHOICE (log 37): the pacing of a stopped context is on data; no rule gives it a value. -/
def State.stopCtx (s : State) (p : PortNo) : State :=
  match s.ctx p with
  | none => s
  | some c =>
    if c.mode = .stopped then s
    else (s.dropRead p).updCtx p (fun c => { c with mode := .stopped, pacing := .onData })

end Sys2Proof.Machine
end

