-- ==== Sys2Proof/Machine/Holds.lean ====
section
/-!
DEFINITION. Sys2Proof/Machine/Holds.lean: the Hand-off Unit's holds (Chapter 6): making a hold, its end by lapse or
recall, and what a typist's quiet or link loss does.
-/

namespace Sys2Proof.Machine

/-- A port's reservation becomes absent (R97). -/
def State.dropReservation (s : State) (p : PortNo) : State :=
  s.setHandoff p { s.handoff p with reservation := none }

/-- Load a typist's play context for its held chunk, with bounds [play start, own end) (R98 step 5). -/
def State.loadTypist (s : State) (p : PortNo) (n : ChunkName) (cursor : Option Nat) : State :=
  match s.chunk? n with
  | none => s
  | some c =>
    s.createCtx p .typist n.take c.playStart c.ownEnd (cursor.getD c.playStart) .stopped false

/-- A chunk becomes HELD by a link, by ACCEPT or CLAIM (R98). -/
def State.makeHold (s : State) (p : PortNo) (n : ChunkName) : State :=
  let s := s.leaveReady p
  let s := s.updChunk n (fun c => { c with
    state := .held, holderStation := (s.link p).station, holderPort := some p,
    heldSince := some s.clock, offeree := none, noOffer := false, lastDecliner := none })
  s.loadTypist p n none

/-- The RECALLED record of a chunk parked now (R107, R108). -/
def State.recalledRec (s : State) (c : Chunk) : LogRec :=
  { kind := .recalled, chunk := c.name, station := c.holderStation, clock := s.clock,
    heldSince := c.heldSince, pages := 0, tooLate := false }

/-- A chunk in PARKED: no pool, no holder, no offeree, no timer (R107, R108). -/
def Chunk.park (c : Chunk) : Chunk :=
  { c with state := .parked, pool := none, offeree := none, holderStation := none,
           holderPort := none, heldSince := none, savedCursor := none, graceTimer := none,
           recallPending := false }

/-- Park a chunk with its RECALLED record: the holder's station and held-since when it had one (R108). -/
def State.parkChunk (s : State) (c : Chunk) : State :=
  (s.updChunk c.name Chunk.park).logWrite (s.recalledRec c)

/-- A hold ends with its link: a lapse with the saved cursor and a grace timer (R102), or a park with recall
pending (R108).  The context goes either way. -/
def State.loseHold (s : State) (p : PortNo) : State :=
  match s.heldBy p with
  | none => s.removeCtx p
  | some c =>
    let saved := (s.ctx p).map (·.cursor)
    let s := s.removeCtx p
    if c.recallPending then s.parkChunk c
    else
      s.updChunk c.name (fun c => { c with
        state := .lapsing, savedCursor := saved, holderPort := none, graceTimer := some s.grace })

/-- A TYPIST link has gone QUIET (R153): the offer is withdrawn with notice, the port leaves its ready list,
its reservation is cleared, and a held chunk's playback stops (R125). -/
def State.typistQuiet (s : State) (p : PortNo) : State :=
  let s := s.leaveReady p
  let s := s.dropReservation p
  let s := s.withdrawOffer p true false
  s.stopCtx p

/-- A TYPIST link is lost (R154): as at a quiet, but without notice, the lapsed offer becoming absent (R90),
and the hold lapses or parks. -/
def State.typistLoss (s : State) (p : PortNo) : State :=
  let s := s.leaveReady p
  let s := s.dropReservation p
  let k := s.offerPool p
  let offered := (s.handoff p).offer.isSome
  let s := s.endOffer p Chunk.unoffer false
  let s := s.setHandoff p { s.handoff p with lapsed := none }
  let s := s.loseHold p
  if offered then s.offerPass? k else s

/-- End a hold by FINISH or YIELD: the context is removed and the readers count falls (R100, R101). -/
def Chunk.unhold (c : Chunk) : Chunk :=
  { c with state := .pending, holderStation := none, holderPort := none, heldSince := none }

end Sys2Proof.Machine
end

