-- ==== Sys2Proof/Machine/Intake.lean ====
section
/-!
DEFINITION. Sys2Proof/Machine/Intake.lean: the Intake Unit and the Take Directory's take states (Chapters 1 and
2): storing and losing frames, gaps, silence runs, pauses, closes, and the loss of a recorder link.
-/

namespace Sys2Proof.Machine

/-! ### The matter filter -/

/-- An enabled element's test of a matter code (R26). -/
def FilterElem.matches (e : FilterElem) (code : Nat) : Bool :=
  e.enabled &&
    match e.kind with
    | .range => e.first ≤ code && code ≤ e.second
    | .mask => (code &&& e.second) = (e.first &&& e.second)
    | .pair => code = e.first || code = e.second

/-- The action of the first matching element in index order, or the default action (R27). -/
def State.actionFor (s : State) (code : Nat) : Action :=
  match s.filter.toArray.toList.find? (fun e => e.matches code) with
  | some e => e.action
  | none => s.defaultAction

/-! ### Allocation of a take record -/

/-- The next take id after one: 65,535 is followed by 1 (R2). -/
def bumpId (n : Nat) : Nat := if n < 65535 then n + 1 else 1

/-- The first id from the counter on that no record has (R2); at most 63 are in use, so 64 tests end it. -/
def freeId (used : List Nat) : Nat → Nat → Nat
  | 0, n => n
  | fuel + 1, n => if used.contains n then freeId used fuel (bumpId n) else n

/-- The lowest FREE record slot, 0..63 (R1). -/
def State.freeSlot (s : State) : Option Nat := firstFree (s.takes.map (·.1)) Config.takeSlots 0

/-- The take id the counter gives now (R2). -/
def State.nextTakeId (s : State) : Nat :=
  freeId (s.takes.map (·.2.id)) Config.takeSlots s.takeIdCounter

/-- A take record at open (R1). -/
def State.openedTake (s : State) (p : PortNo) (matter : Nat) : Take :=
  { id := s.nextTakeId, matter := matter, action := s.actionFor matter, state := .recording
    recPort := some p, station := (s.link p).station.getD 0, openedAt := s.clock, closedAt := none
    endTime := 0, chain := [], cues := [], offRecordOpen := false, restrictOpen := none
    cursor := 0, nextOrdinal := 1, deferred := false, chunksMade := 0, chunksFinished := 0
    damagedSeen := 0, exported := false, readers := 0 }

/-- Prepare a port for a new take (R24): run inactive, gap clear, starving and discard flags clear. -/
def Intake.fresh (i : Intake) : Intake :=
  { i with run := none, gap := none, starving := false, discard := false }

/-! ### Gaps and runs -/

/-- The silence run of a port ends (R34). -/
def State.endRun (s : State) (p : PortNo) : State := s.setIntake p { s.intake p with run := none }

/-- The gap of a port is closed: the GAP cue at the noted time with duration E less it, and the tracker and
starving flag cleared (R37). -/
def State.closeGap (s : State) (p : PortNo) (take stop : Nat) : State :=
  match (s.intake p).gap with
  | none => s
  | some noted =>
    (s.placeClosing take noted .gap (some (stop - noted)) .auto).setIntake p
      { s.intake p with gap := none, starving := false }

/-- A frame is lost: the gap tracker notes the time, and the first starving loss of a gap tells the desks and
the recorder (R35). -/
def State.loseFrame (s : State) (p : PortNo) (take time : Nat) (starving : Bool) : State :=
  let noted := (s.intake p).gap.getD time
  let tells := starving && !(s.intake p).starving
  let s := s.setIntake p { s.intake p with
    gap := some noted, starving := (s.intake p).starving || starving }
  if tells then
    (s.notifyDesks (.storeEmpty take noted)).notify p (.storeEmpty take noted)
  else s

/-- A record that needs a new block obtains one or is lost: overrun is tested before starving (R33, R35).  A
block obtained ends the gap (R32 step 1). -/
def State.obtainOrLose (s : State) (p : PortNo) (t : Take) (r : Rec) : State :=
  match s.emptyBuf p, s.free.pop with
  | none, _ => s.loseFrame p t.id t.endTime false
  | some _, none => s.loseFrame p t.id t.endTime true
  | some k, some _ => (s.allocate p k t.id t.endTime r).closeGap p t.id t.endTime

/-- A record joins the take's open block, or closes it and needs a new one (R33). -/
def State.storeRecord (s : State) (p : PortNo) (t : Take) (r : Rec) : State :=
  match s.openBuf p t.id with
  | none => s.obtainOrLose p t r
  | some k =>
    match (s.intake p).buf k with
    | .assembling b take start rs =>
      match appendRec rs r with
      | some rs' => s.setBuf p k (.assembling b take start rs')
      | none => (s.closeBlock p k).obtainOrLose p t r
    | _ => s.obtainOrLose p t r

/-- The silence run after a frame of the take (R34): speech ends it, silence starts or extends it. -/
def nextRun (run : Option Run) (stop : Nat) : Rec → Option Run
  | .speech _ => none
  | .silence n =>
    match run with
    | none => some { start := stop, length := 2 * n, attempted := false }
    | some r => some { r with length := r.length + 2 * n }

/-- The AUTO_PAUSE attempt when the run first reaches P (R34). -/
def State.attemptPause (s : State) (p : PortNo) (take : Nat) : State :=
  match (s.intake p).run with
  | none => s
  | some r =>
    if !r.attempted && s.pauseThreshold ≤ r.length then
      let s := s.setIntake p { s.intake p with run := some { r with attempted := true } }
      s.placeIfAdmitted take (even (r.start + s.pauseThreshold / 2)) .autoPause none .auto
    else s

/-! ### Closing a take -/

/-- End an open off-record span at a close (R6 step 2, R14). -/
def State.closeOffRecord (s : State) (t : Take) : State :=
  if t.offRecordOpen then
    (s.placeClosing t.id t.endTime .offRecordEnd t.openOffRecord .auto).updTake t.id
      (fun t => { t with offRecordOpen := false })
  else s

/-- End an open restricted span at a close (R6 step 3, R14). -/
def State.closeRestricted (s : State) (t : Take) : State :=
  match t.restrictOpen with
  | none => s
  | some i =>
    (s.placeClosing t.id t.endTime .restrictEnd (some i) .auto).updTake t.id
      (fun t => { t with restrictOpen := none })

/-- End the run and close the gap of the take's recorder port, if it has one (R6 step 1, R38). -/
def State.settlePort (s : State) (t : Take) : State :=
  match t.recPort with
  | none => s
  | some p => (s.endRun p).closeGap p t.id t.endTime

/-- Clear the discard flag of the take's recorder port, if it has one (R30). -/
def State.settleDiscard (s : State) (t : Take) : State :=
  match t.recPort with
  | none => s
  | some p => s.clearDiscard p

/-- The close of a take, steps 1 to 7 of R6; `limit` for a close at the take limit. -/
def State.closeTake (s : State) (t : Take) (limit : Bool) : State :=
  let s := s.settlePort t
  let s := s.closeOffRecord t
  let s := s.closeRestricted t
  let s := if limit then s.placeClosing t.id t.endTime .takeLimit none .auto else s
  let s := s.closeOpenBlock t.id
  let s := s.settleDiscard t
  let s := s.updTake t.id (fun t => { t with
    state := .closed, closedAt := some s.clock, recPort := none })
  s.cutTest t.id false

/-! ### Audio frames -/

/-- Apply a frame to the RECORDING take of its link (R32 to R40). -/
def State.applyFrame (s : State) (p : PortNo) (t : Take) (r : Rec) : State :=
  if Config.takeLimit < t.endTime + r.duration then
    (s.closeTake t true).notify p (.takeLimit t.id t.endTime)
  else
    let run := nextRun (s.intake p).run t.endTime r
    let s := s.setIntake p { s.intake p with run := run }
    let s := s.storeRecord p t r
    let s := s.updTake t.id (fun t => { t with endTime := t.endTime + r.duration })
    let s := s.attemptPause p t.id
    s.cutTest t.id false

/-- An audio frame handed to the IU by the SLI, by the state of the link's take (R30). -/
def State.takeAudio (s : State) (p : PortNo) (r : Rec) : State :=
  match s.linkTake p with
  | none => s.discardAudio p none
  | some t => if t.state = .recording then s.applyFrame p t r else s.discardAudio p (some t.id)

/-! ### Pauses, quiets and losses -/

/-- A RECORDING take becomes PAUSED: the run ends, the gap closes, the cue is placed and the discard flag is
cleared (R5, R8, R37, R38). -/
def State.pauseTake (s : State) (p : PortNo) (t : Take) (place : State → State) : State :=
  let s := (s.endRun p).closeGap p t.id t.endTime
  let s := place s
  (s.updTake t.id (fun t => { t with state := .paused })).clearDiscard p

/-- LINK_QUIET at E (R8, R9). -/
def State.placeLinkQuiet (s : State) (t : Take) : State :=
  s.placeClosing t.id t.endTime .linkQuiet none .auto

/-- Readback ends: context removed, READBACK_END at E, take PAUSED, discard flag cleared, role RECORDER
(R139 to R141).  `quiet` places LINK_QUIET after it. -/
def State.endReadback (s : State) (p : PortNo) (t : Take) (origin : Origin) (quiet : Bool) : State :=
  let s := s.removeCtx p
  let s := s.placeClosing t.id t.endTime .readbackEnd none origin
  let s := if quiet then s.placeLinkQuiet t else s
  let s := s.updTake t.id (fun t => { t with state := .paused })
  let s := s.clearDiscard p
  s.setLink p { s.link p with role := some .recorder }

/-- The take of a recorder link that has gone QUIET (R8). -/
def State.recorderQuiet (s : State) (p : PortNo) : State :=
  match s.linkTake p with
  | none => s
  | some t =>
    if t.state = .recording then s.pauseTake p t (fun s => s.placeLinkQuiet t) else s

/-- A READER port has gone QUIET (R140). -/
def State.readerQuiet (s : State) (p : PortNo) : State :=
  match s.linkTake p with
  | none => s.removeCtx p
  | some t => s.endReadback p t .auto true

/-- The take's recorder port becomes absent: it is orphaned (R9). -/
def State.orphan (s : State) (t : Take) : State :=
  s.updTake t.id (fun t => { t with recPort := none })

/-- A RECORDER link is lost (R9): a RECORDING take pauses with LINK_QUIET first. -/
def State.recorderLoss (s : State) (p : PortNo) : State :=
  match s.linkTake p with
  | none => s
  | some t =>
    let s := if t.state = .recording then s.pauseTake p t (fun s => s.placeLinkQuiet t) else s
    s.orphan t

/-- A READER link is lost (R141): readback ends and the take is orphaned. -/
def State.readerLoss (s : State) (p : PortNo) : State :=
  match s.linkTake p with
  | none => s.removeCtx p
  | some t => (s.endReadback p t .auto false).orphan t

end Sys2Proof.Machine
end

