-- ==== Sys2Proof/Machine/Links.lean ====
section
/-!
DEFINITION. Sys2Proof/Machine/Links.lean: the Station Link Interface (Chapter 9): good and bad frames, quiet and
loss with their role effects, and how a command reaches its owner.
-/

namespace Sys2Proof.Machine

/-- The role effects of a quiet (R153). -/
def State.quietEffects (s : State) (p : PortNo) : State :=
  match (s.link p).role with
  | some .recorder => s.recorderQuiet p
  | some .reader => s.readerQuiet p
  | some .typist => s.typistQuiet p
  | some .desk => s.removeCtx p
  | none => s

/-- The role effects of a link loss (R154), carried out before the port record is cleared. -/
def State.lossEffects (s : State) (p : PortNo) : State :=
  match (s.link p).role with
  | some .recorder => s.recorderLoss p
  | some .reader => s.readerLoss p
  | some .typist => s.typistLoss p
  | some .desk => s.removeCtx p
  | none => s

/-- The port record with the attachment cleared: role none, no station id, clearance 0, empty mask, quiet and
drop timers stopped (9.1, R149, R154). -/
def Link.cleared (l : Link) : Link :=
  { l with role := none, station := none, clearance := 0, mask := 0, quietTimer := false,
           dropTimer := none }

/-- A link loss on an attached port: the role effects, and then the port record is cleared (R154).  A port
that is not attached has no role and no effects. -/
def State.loseLink (s : State) (p : PortNo) : State :=
  let s := if (s.link p).isAttached then s.lossEffects p else s
  s.setLink p (s.link p).cleared

/-- Change the port record. -/
def State.updLink (s : State) (p : PortNo) (f : Link → Link) : State := s.setLink p (f (s.link p))

/-- The port record after a good frame: the count falls by one, a QUIET port returns to ATTACHED, and the
quiet timer restarts (R146, R151). -/
def Link.good (l : Link) : Link :=
  let l := { l with errorCount := l.errorCount - 1 }
  if l.isAttached then { l with state := .attached, quietTimer := true, dropTimer := none } else l

/-- A good frame is taken on a port (R145, R146, R151). -/
def State.goodFrame (s : State) (p : PortNo) : State := (s.updLink p Link.good).testErrors p

/-- A fault: role effects of a link loss, record cleared, FAULTED with the latch set, timers stopped
(R146, R150). -/
def State.faultPort (s : State) (p : PortNo) : State :=
  (s.loseLink p).updLink p (fun l => { l with state := .faulted, faultLatch := true, sendTimer := false })

/-- A bad frame: discarded, the count up by 8 to at most 255, the warning tested, and the fault at 255
(R145, R146). -/
def State.badFrameTaken (s : State) (p : PortNo) : State :=
  let s := (s.updLink p (fun l => { l with errorCount := min 255 (l.errorCount + 8) })).testErrors p
  if (s.link p).errorCount = 255 then s.faultPort p else s

/-- A good frame of any kind but COMMAND on a port that takes frames; `f` acts only on an attached port
(R145). -/
def State.onFrame (s : State) (p : PortNo) (f : State → State) : State :=
  if (s.link p).takesFrames then
    let g := s.goodFrame p
    if (g.link p).isAttached then f g else g
  else s

/-- A good COMMAND frame (R155): on a LISTENING port refused with WRONG_STATE; on an attached port handed
to its owner with whether the port was QUIET when the frame arrived (R151). -/
def State.onCommand (s : State) (c : Cmd) (f : Bool → State → State) : State :=
  if (s.link c.port).takesFrames then
    let g := s.goodFrame c.port
    if (g.link c.port).isAttached then f ((s.link c.port).state = .quiet) g
    else g.refuse c .wrongState
  else s

/-- A command of one role (R155): any other role receives WRONG_ROLE. -/
def State.asRole (s : State) (c : Cmd) (r : Role) (f : State → State) : State :=
  s.onCommand c (fun _ g => if (g.link c.port).role = some r then f g else g.refuse c .wrongRole)

/-- A desk command: WRONG_ROLE comes before any other check (Chapter 10). -/
def State.asDesk (s : State) (c : Cmd) (f : State → State) : State := s.asRole c .desk f

/-- A typist command. -/
def State.asTypist (s : State) (c : Cmd) (f : State → State) : State := s.asRole c .typist f

/-- A setting write: a desk command refused with NOT_SETUP in RUN before its operands are checked (R157). -/
def State.asSetting (s : State) (c : Cmd) (f : State → State) : State :=
  s.asDesk c (fun g => if g.opState = .setup then f g else g.refuse c .notSetup)

/-- A port in role RECORDER or READER: checks 1 of R23. -/
def State.asRecorder (s : State) (c : Cmd) (f : Bool → State → State) : State :=
  s.onCommand c (fun q g =>
    if (g.link c.port).role = some .recorder || (g.link c.port).role = some .reader then f q g
    else g.refuse c .wrongRole)

/-- A recorder command other than OPEN_TAKE: checks 1 to 3 of R23, then its own with the link's take. -/
def State.onTake (s : State) (c : Cmd) (f : Bool → State → Take → State) : State :=
  s.asRecorder c (fun q g =>
    match g.linkTake c.port with
    | none => g.refuse c .noSuch
    | some t => f q g t)

end Sys2Proof.Machine
end

