-- ==== Sys2Proof/Machine/DeskCommands.lean ====
section
/-!
DEFINITION. Sys2Proof/Machine/DeskCommands.lean: the desk family: closing, restricting, releasing and exporting
takes, recall and repool, and the completion log (Chapters 1, 5, 6 and 7).
-/

namespace Sys2Proof.Machine

/-- CLOSE_TAKE with a take operand (R7). -/
def execCloseTakeDesk (p : PortNo) (tag : Byte) (take : Nat) (s : State) :
    Host.Outcome State Fault Refusal :=
  s.running (fun s =>
    let c : Cmd := { port := p, tag := tag, code := 0x40 }
    s.asDesk c (fun g =>
      match g.take? take with
      | none => g.refuse c .noSuch
      | some t =>
        if t.isOrphaned then (g.closeTake t false).ok c []
        else if t.isOpen then g.refuse c .takeBusy
        else g.refuse c .wrongState))

/-- Insert a chunk by ascending ordinal. -/
def insertOrdinal (c : Chunk) : List Chunk → List Chunk
  | [] => [c]
  | y :: r => if c.name.ordinal < y.name.ordinal then c :: y :: r else y :: insertOrdinal c r

/-- The live chunks of a take, ascending ordinal (R19, R164). -/
def State.chunksOf (s : State) (take : Nat) : List Chunk :=
  (s.chunks.filter (fun c => c.name.take = take)).foldl (fun acc c => insertOrdinal c acc) []

/-- Place a desk's span: RESTRICT_BEGIN at `start`, RESTRICT_END at `stop` naming it, consecutive arrivals
(R18 step 5). -/
def State.placeSpan (s : State) (take start stop level : Nat) : State :=
  let i := s.lowestCue
  (s.placeCue take start .restrictBegin (some level) .desk).placeCue take stop .restrictEnd i .desk

/-- A desk span's effect on exports: running exports of the take are marked silenced and the take's exported
flag falls (R130). -/
def State.spoilExports (s : State) (take : Nat) : State :=
  let s := allPorts.foldl (fun s p =>
    s.updCtx p (fun c =>
      if c.kind = .exporting && c.take = take then { c with silenced := true } else c)) s
  s.updTake take (fun t => { t with exported := false })

/-- Raise the affected live chunks, ascending ordinal (R19). -/
def State.raiseChunks (s : State) (take start stop level : Nat) : State :=
  ((s.chunksOf take).filter (fun c => overlaps c.playStart c.ownEnd start stop)).foldl
    (fun s c => s.raiseChunk level c.name) s

/-- RESTRICT_SPAN(take, from, to, level) (R18, R19, R130). -/
def execRestrictSpan (p : PortNo) (tag : Byte) (take start stop level : Nat) (s : State) :
    Host.Outcome State Fault Refusal :=
  s.running (fun s =>
    let c : Cmd := { port := p, tag := tag, code := 0x41 }
    s.asDesk c (fun g =>
      match g.take? take with
      | none => g.refuse c .noSuch
      | some t =>
        if t.state = .releasing then g.refuse c .takeBusy
        else
          let a := clamp 0 t.endTime (even start)
          let b := clamp 0 t.endTime (even stop)
          let l := clamp 1 3 level
          if b ≤ a then g.refuse c .noSpan
          else if g.admitsSpan then
            let g := (g.placeSpan take a b l).spoilExports take
            let g := (g.signalCue take a .restrictBegin).signalCue take b .restrictEnd
            (g.raiseChunks take a b l).replyClamped c
              (a ≠ start || b ≠ stop || l ≠ level) [.time a, .time b, .level l]
          else g.refuse c .tableFull))

/-- The first unmet condition of the release gate (R20). -/
def Take.releaseUnmet (t : Take) : Option Unmet :=
  if t.state ≠ .closed then some .notClosed
  else if !t.exported then some .notExported
  else if t.chunksMade ≠ t.chunksFinished || t.deferred then some .chunksLive
  else if t.readers ≠ 0 then some .readersPresent
  else none

/-- The release completes: the record becomes FREE, its cue entries return to the pool with it, and the desks
are told (R21). -/
def State.completeRelease (s : State) (take : Nat) : State :=
  State.notifyDesks { s with takes := s.takes.filter (fun e => e.2.id ≠ take) } (.released take)

/-- RELEASE_TAKE(take) (R20, R21, R56). -/
def execReleaseTake (p : PortNo) (tag : Byte) (take : Nat) (s : State) :
    Host.Outcome State Fault Refusal :=
  s.running (fun s =>
    let c : Cmd := { port := p, tag := tag, code := 0x42 }
    s.asDesk c (fun g =>
      match g.take? take with
      | none => g.refuse c .noSuch
      | some t =>
        match t.releaseUnmet with
        | some u => g.refuseUnmet c u
        | none =>
          let g := (g.updTake take (fun t => { t with state := .releasing })).ok c []
          if t.chain.isEmpty then g.completeRelease take
          else g.requestRelease take t.chain.length))

/-- EXPORT_BEGIN(take) (R126). -/
def execExportBegin (p : PortNo) (tag : Byte) (take : Nat) (s : State) :
    Host.Outcome State Fault Refusal :=
  s.running (fun s =>
    let c : Cmd := { port := p, tag := tag, code := 0x43 }
    s.asDesk c (fun g =>
      if (g.ctx p).isSome then g.refuse c .wrongState
      else
        match g.take? take with
        | none => g.refuse c .noSuch
        | some t =>
          if t.state = .releasing then g.refuse c .takeBusy
          else
            let closed : Bool := t.state = .closed
            let g := g.createCtx p .exporting take 0 t.endTime 0 .playing closed
            (g.ok c [.takeId take, .time t.endTime, .unlisted (.answer closed)]).continueExport p))

/-- EXPORT_STOP (R129). -/
def execExportStop (p : PortNo) (tag : Byte) (s : State) : Host.Outcome State Fault Refusal :=
  s.running (fun s =>
    let c : Cmd := { port := p, tag := tag, code := 0x44 }
    s.asDesk c (fun g =>
      match g.ctx p with
      | none => g.refuse c .noSuch
      | some x =>
        (g.removeCtx p).ok c [.takeId x.take, .time x.cursor,
          .unlisted (.damagedCount x.damagedCount), .unlisted (.answer x.silenced)]))

/-- The RECALLED record of a chunk that had no holder (R107). -/
def State.recalledFree (s : State) (x : Chunk) : LogRec :=
  { kind := .recalled, chunk := x.name, station := none, clock := s.clock, heldSince := none,
    pages := 0, tooLate := false }

/-- Recall an OFFERED chunk: the offer is withdrawn, the chunk parked and logged, and the offeree re-enters
its ready list with a pass (R107, R89). -/
def State.recallOffered (s : State) (x : Chunk) : State :=
  match x.offeree with
  | none => (s.updChunk x.name Chunk.park).logWrite (s.recalledFree x)
  | some q =>
    let s := s.endOffer q Chunk.park true
    let s := s.logWrite (s.recalledFree x)
    (s.rejoin q x.pool).offerPass? x.pool

/-- Recall a HELD chunk: recall pending and RECALL_REQUESTED to the holder, once (R107). -/
def State.recallHeld (s : State) (x : Chunk) : State :=
  if x.recallPending then s
  else
    let s := s.updChunk x.name (fun c => { c with recallPending := true })
    match x.holderPort with
    | some q => s.notify q (.recallRequested x.name)
    | none => s

/-- RECALL(take id, ordinal) (R107). -/
def execRecall (p : PortNo) (tag : Byte) (take ordinal : Nat) (s : State) :
    Host.Outcome State Fault Refusal :=
  s.running (fun s =>
    let c : Cmd := { port := p, tag := tag, code := 0x45 }
    s.asDesk c (fun g =>
      match g.chunk? { take := take, ordinal := ordinal } with
      | none => g.refuse c .noSuch
      | some x =>
        match x.state with
        | .parked => g.refuse c .wrongState
        | .pending => ((g.updChunk x.name Chunk.park).logWrite (g.recalledFree x)).ok c []
        | .offered => (g.recallOffered x).ok c []
        | .held => (g.recallHeld x).ok c []
        | .lapsing => (g.parkChunk x).ok c []))

/-- The record of an accepted REPOOL: the named pool, NO_OFFER and the last decliner cleared (R92). -/
def Chunk.repooled (c : Chunk) (k : PoolId) : Chunk :=
  { c with pool := some k, noOffer := false, lastDecliner := none }

/-- An accepted REPOOL up to its reply (R92): an OFFERED chunk going to another pool has its offer withdrawn,
its offeree re-entering the old pool's ready list, with a pass there. -/
def State.repoolChunk (s : State) (x : Chunk) (k : PoolId) : State :=
  match x.state, x.offeree with
  | .offered, some q =>
    if x.pool = some k then s.updChunk x.name (fun c => c.repooled k)
    else
      let s := s.endOffer q (fun c => (c.repooled k).unoffer) true
      (s.rejoin q x.pool).offerPass? x.pool
  | .parked, _ => s.updChunk x.name (fun c => { c.repooled k with state := .pending })
  | _, _ => s.updChunk x.name (fun c => c.repooled k)

/-- REPOOL(take id, ordinal, pool) (R92). -/
def execRepool (p : PortNo) (tag : Byte) (take ordinal pool : Nat) (s : State) :
    Host.Outcome State Fault Refusal :=
  s.running (fun s =>
    let c : Cmd := { port := p, tag := tag, code := 0x46 }
    s.asDesk c (fun g =>
      match poolOf pool with
      | none => g.refuse c .noSuch
      | some k =>
        match g.chunk? { take := take, ordinal := ordinal } with
        | none => g.refuse c .noSuch
        | some x =>
          if x.state = .held || x.state = .lapsing then g.refuse c .wrongState
          else
            let g := g.repoolChunk x k
            (g.ok c (g.summaryItems x.name)).offerPass k))

/-- FETCH_LOG(n) (R111). -/
def execFetchLog (p : PortNo) (tag : Byte) (n : Nat) (s : State) :
    Host.Outcome State Fault Refusal :=
  s.running (fun s =>
    let c : Cmd := { port := p, tag := tag, code := 0x47 }
    s.asDesk c (fun g =>
      let m := clamp 1 8 n
      let items := (g.log.take m).map Item.logRec ++
        [.unlisted (.logLeft (g.log.drop m).length), .unlisted (.answer g.overrun)]
      State.replyBoth { g with log := g.log.drop m, overrun := false } c (m ≠ n)
        (if m ≠ n then .count m :: items else items)))

end Sys2Proof.Machine
end

