-- ==== Sys2Proof/Machine/Events.lean ====
section
/-!
DEFINITION. Sys2Proof/Machine/Events.lean: the family of the part's own events: reset, link timers, and the
completions of store tenures (Chapters 3, 9 and 10).
-/

namespace Sys2Proof.Machine

/-- The part at its reset values, with the commands that still wait and the level of the reset pin. -/
def State.resetTo (s : State) (held : Bool) : State :=
  { State.reset with pending := s.pending, resetHeld := held }

/-- POWER_ON_RESET (R165).  The pin's level is the board's, and power-on does not change it. -/
def execPowerOnReset (s : State) : Host.Outcome State Fault Refusal := .next (s.resetTo s.resetHeld)

/-- HARD_RESET (R165): the pin is released, and every block holds its reset values. -/
def execHardReset (s : State) : Host.Outcome State Fault Refusal := .next (s.resetTo false)

/-- RESET_PIN_ASSERTED (R165): every operation ends without completion, reply or notice; the pin acts as
power-on for as long as it is held (11.6). -/
def execResetPinAsserted (s : State) : Host.Outcome State Fault Refusal := .next (s.resetTo true)

/-- QUIET_TIMER_EXPIRY (R151, R153): an ATTACHED port becomes QUIET, its drop timer starts with the drop time
in effect, and the blocks of its role act. -/
def execQuietTimerExpiry (p : PortNo) (s : State) : Host.Outcome State Fault Refusal :=
  s.running (fun s =>
    if (s.link p).state = .attached && (s.link p).quietTimer then
      (s.updLink p (fun l => { l with
        state := .quiet, quietTimer := false, dropTimer := some s.dropTime })).quietEffects p
    else s)

/-- DROP_TIMER_EXPIRY (R152, R154): the link is dropped as a loss, and the port is LISTENING. -/
def execDropTimerExpiry (p : PortNo) (s : State) : Host.Outcome State Fault Refusal :=
  s.running (fun s =>
    if (s.link p).state = .quiet && (s.link p).dropTimer.isSome then
      (s.loseLink p).updLink p (fun l => { l with state := .listening })
    else s)

/-- SEND_TIMER_EXPIRY (R150): an IDLE frame, which restarts the timer. -/
def execSendTimerExpiry (p : PortNo) (s : State) : Host.Outcome State Fault Refusal :=
  s.running (fun s => if (s.link p).sendTimer then s.emit p .idle else s)

/-- The completion of a write (R49): content and check value recorded, entry STORED, buffer EMPTY. -/
def State.completeWrite (s : State) (r : WriteReq) : State :=
  let recs := ((s.intake r.port).buf r.buf).recs
  let bytes := recsBytes recs
  let s := { s with
    store := Table.put s.store r.block { recs := recs, bytes := bytes }
    directory := Table.change s.directory r.block
      (fun e => { e with state := .stored, check := some (crc bytes), port := none }) }
  s.setBuf r.port r.buf .empty

/-- WRITE_TENURE_COMPLETE (R47, R49). -/
def execWriteTenureComplete (s : State) : Host.Outcome State Fault Refusal :=
  s.running (fun s =>
    match s.arbiter.tenure with
    | some (.write r) => ((s.completeWrite r).endTenure).grant
    | _ => s)

/-- A block found mismatched becomes DAMAGED and its owner's count rises (R53). -/
def State.markDamaged (s : State) (block take : Nat) : State :=
  { s with directory := Table.change s.directory block (fun e => { e with state := .damaged }) }.updTake
    take (fun t => { t with damagedSeen := t.damagedSeen + 1 })

/-- The requesting player is told of a damaged block and the block is noted against its port (R53, R54). -/
def State.tellPlayer (s : State) (p : PortNo) (block take start stop : Nat) : State :=
  (s.notify p (.damagedBlock take start stop)).setLastDamage p (some block)

/-- DAMAGED_BLOCK of a marking: to the requesting port while the read is wanted, and to every desk but that
port, once each (R53). -/
def State.tellDamage (s : State) (p : PortNo) (block take start stop : Nat) (wanted : Bool) : State :=
  let desks := (s.portsOf [.desk]).filter (fun q => !(wanted && q = p))
  let s := if wanted then s.tellPlayer p block take start stop else s
  s.notifyEach desks (.damagedBlock take start stop)

/-- A read of a STORED block after the DRAM's changes: the check is computed again (R46).  Answers the state
and the records delivered, none for a mismatch. -/
def State.readStored (s : State) (r : ReadReq) (block start stop : Nat) (wanted : Bool)
    (upsets : List Upset) : State × Option (List Rec) :=
  match Table.find s.store block, Table.find s.directory block with
  | some b, some e =>
    let b := b.upset upsets
    let s := { s with store := Table.put s.store block b }
    if e.check = some (crc b.bytes) then (s, some b.content)
    else ((s.markDamaged block e.owner).tellDamage r.port block e.owner start stop wanted, none)
  | _, _ => (s, none)

/-- A read of a block already DAMAGED: a player not yet told of this block is told (R54). -/
def State.readDamaged (s : State) (r : ReadReq) (block start stop : Nat) (wanted : Bool) : State :=
  if wanted && (s.port r.port).lastDamage ≠ some block then
    s.tellPlayer r.port block r.take start stop
  else s

/-- The content of a completing read, with the damage it finds (R52 to R54).  The second value is the records,
the third whether a block's damage silenced it. -/
def State.readContent (s : State) (r : ReadReq) (block : Option Nat) (recStart stop : Nat)
    (source : Source) (wanted : Bool) (upsets : List Upset) : State × List Rec × Bool :=
  match source, block with
  | .buffered recs, _ => (s, recs, false)
  | .stored, some b =>
    match s.readStored r b recStart stop wanted upsets with
    | (s, some recs) => (s, recs, false)
    | (s, none) => (s, [], true)
  | .damaged, some b => (s.readDamaged r b recStart stop wanted, [], true)
  | .nothing, _ => (s, [], false)
  | .stored, none => (s, [], false)
  | .damaged, none => (s, [], false)

/-- READ_TENURE_COMPLETE (R47, R52 to R55, R121).  A stale result is discarded.  `requestFirst` settles whether
the player's next request or this completion's grant comes first (R47).
DESIGN CHOICE (log 35): DAMAGED_BLOCK goes out before the frames that the delivered result lets the player send;
no rule orders the two on the requesting port. -/
def execReadTenureComplete (upsets : List Upset) (requestFirst : Bool) (s : State) :
    Host.Outcome State Fault Refusal :=
  s.running (fun s =>
    match s.arbiter.tenure with
    | some (.read r block start stop recStart source stale) =>
      let (s, recs, damaged) := s.readContent r block recStart stop source (!stale) upsets
      let result : ReadResult :=
        { block := block, start := start, stop := stop, recStart := recStart, recs := recs }
      if stale then s.endTenure.grant
      else if requestFirst then ((s.deliver r.port result damaged).endTenure).grant
      else (s.endTenure.grant).deliver r.port result damaged
    | _ => s)

/-- The head block of a take's chain goes to the tail of the free list (R21, R56). -/
def State.freeHead (s : State) (take block : Nat) : State :=
  let s := s.updTake take (fun t => { t with chain := t.chain.tail })
  State.testLow { s with
    free := s.free.push block
    directory := Table.drop s.directory block
    store := Table.drop s.store block }

/-- RELEASE_STEP_COMPLETE (R21, R47, R56). -/
def execReleaseStepComplete (s : State) : Host.Outcome State Fault Refusal :=
  s.running (fun s =>
    match s.arbiter.tenure with
    | some (.release take) =>
      match (s.take? take).map (·.chain) with
      | some ((block, _) :: rest) =>
        let s := s.freeHead take block
        let s := if rest.isEmpty then s.completeRelease take else s
        s.endTenure.grant
      | _ => s.endTenure.grant
    | _ => s)

end Sys2Proof.Machine
end

