-- ==== Sys2Proof/Machine/LinkCommands.lean ====
section
/-!
DEFINITION. Sys2Proof/Machine/LinkCommands.lean: the family of port events, frames without an owner, and the
commands the Station Link Interface takes itself (ATTACH, DETACH, SET_MASK).
-/

namespace Sys2Proof.Machine

/-- CARRIER_ARRIVES (R144): a DOWN port becomes LISTENING, or FAULTED with its latch set.  The send timer
starts with LISTENING (R150). -/
def execCarrierArrives (p : PortNo) (s : State) : Host.Outcome State Fault Refusal :=
  s.running (fun s =>
    if (s.link p).state = .down then
      if (s.link p).faultLatch then s.updLink p (fun l => { l with state := .faulted })
      else s.updLink p (fun l => { l with state := .listening, sendTimer := true })
    else s)

/-- CARRIER_LOST (R144): a link loss on an attached port; then DOWN, all timers of the port stopped. -/
def execCarrierLost (p : PortNo) (s : State) : Host.Outcome State Fault Refusal :=
  s.running (fun s =>
    if (s.link p).state = .down then s
    else (s.loseLink p).updLink p (fun l => { l with state := .down, sendTimer := false }))

/-- LINE_BREAK (R147): recognised on a port with carrier; the port returns to LISTENING with count 0 and no
warning or latch, after a link loss if it was attached. -/
def execLineBreak (p : PortNo) (s : State) : Host.Outcome State Fault Refusal :=
  s.running (fun s =>
    if (s.link p).state = .down then s
    else (s.loseLink p).updLink p (fun l => { l with
      state := .listening, errorCount := 0, warning := false, faultLatch := false,
      sendTimer := true }))

/-- BAD_FRAME (R145, R146): taken on a port in LISTENING, ATTACHED or QUIET. -/
def execBadFrame (p : PortNo) (s : State) : Host.Outcome State Fault Refusal :=
  s.running (fun s => if (s.link p).takesFrames then s.badFrameTaken p else s)

/-- FRAME_IGNORED_FAULTED (R147): no count changes and nothing is sent. -/
def execFrameIgnoredFaulted (_p : PortNo) (s : State) : Host.Outcome State Fault Refusal :=
  s.running (fun s => s)

/-- IDLE (R145): a good frame, and nothing more. -/
def execIdle (p : PortNo) (s : State) : Host.Outcome State Fault Refusal :=
  s.running (fun s => s.onFrame p (fun g => g))

/-- COMMAND_UNKNOWN (R155 step 1): a good frame, refused with UNKNOWN on any port that takes frames. -/
def execCommandUnknown (p : PortNo) (tag : Byte) (code : Nat) (s : State) :
    Host.Outcome State Fault Refusal :=
  s.running (fun s =>
    if (s.link p).takesFrames then
      (s.goodFrame p).refuse { port := p, tag := tag, code := code } .unknown
    else s)

/-- The station id is attached on another port (R148 step 3). -/
def State.attachedElsewhere (s : State) (p : PortNo) (station : Nat) : Bool :=
  allPorts.any (fun q => q ≠ p && (s.link q).isAttached && (s.link q).station = some station)

/-- The clearance of a station id: its level in the table, 0 for any other (10.3). -/
def State.levelOfStation (s : State) (station : Nat) : Nat :=
  (Table.find s.clearances station).getD 0

/-- The acceptance of an ATTACH (R148). -/
def State.attachPort (s : State) (c : Cmd) (station : Nat) (role : Role) (mask : Nat) : State :=
  let level := s.levelOfStation station
  let s := s.updLink c.port (fun l => { l with
    state := .attached, role := some role, station := some station, mask := mask,
    clearance := level, quietTimer := true })
  let s := s.clearDiscard c.port
  s.ok c [.port c.port, .role (some role), .level level]

/-- ATTACH (R148): checked in the order of the rule. -/
def execAttach (p : PortNo) (tag : Byte) (station role mask : Nat) (s : State) :
    Host.Outcome State Fault Refusal :=
  s.running (fun s =>
    let c : Cmd := { port := p, tag := tag, code := 0x01 }
    if (s.link p).takesFrames then
      let g := s.goodFrame p
      if (g.link p).isAttached then g.refuse c .wrongState
      else
        match announcedRole role with
        | none => g.refuse c .noSuch
        | some r =>
          if station = 0 || 65535 < station || !maskOk mask then g.refuse c .noSuch
          else if g.attachedElsewhere p station then g.refuse c .inUse
          else g.attachPort c station r mask
    else s)

/-- DETACH (R149): the loss's effects, the record cleared, LISTENING, and the reply last. -/
def execDetach (p : PortNo) (tag : Byte) (s : State) : Host.Outcome State Fault Refusal :=
  s.running (fun s =>
    let c : Cmd := { port := p, tag := tag, code := 0x02 }
    s.onCommand c (fun _ g =>
      ((g.loseLink p).updLink p (fun l => { l with state := .listening })).ok c []))

/-- SET_MASK (R156). -/
def execSetMask (p : PortNo) (tag : Byte) (mask : Nat) (s : State) :
    Host.Outcome State Fault Refusal :=
  s.running (fun s =>
    let c : Cmd := { port := p, tag := tag, code := 0x03 }
    s.onCommand c (fun _ g =>
      if maskOk mask then (g.updLink p (fun l => { l with mask := mask })).ok c [.mask mask]
      else g.refuse c .noSuch))

end Sys2Proof.Machine
end

