-- ==== Sys2Proof/Machine/OfficeCommands.lean ====
section
/-!
DEFINITION. Sys2Proof/Machine/OfficeCommands.lean: the office family: clock, clearance table, status and list
queries (Chapter 10, R152).
-/

namespace Sys2Proof.Machine

/-- OFFICE_CLOCK_TICK (R160): up by one, staying at the top value. -/
def execOfficeClockTick (s : State) : Host.Outcome State Fault Refusal :=
  s.running (fun s => { s with clock := min (s.clock + 1) Config.top32 })

/-- SET_CLOCK (R160). -/
def execSetClock (p : PortNo) (tag : Byte) (seconds : Nat) (s : State) :
    Host.Outcome State Fault Refusal :=
  s.running (fun s =>
    let c : Cmd := { port := p, tag := tag, code := 0x48 }
    s.asDesk c (fun g => State.ok { g with clock := seconds } c [.clock seconds]))

/-- The port a station id is attached on. -/
def State.portOfStation (s : State) (station : Nat) : Option PortNo :=
  allPorts.find? (fun q => (s.link q).isAttached && (s.link q).station = some station)

/-- A named chunk requires more than a level. -/
def State.requiresMore (s : State) (n : ChunkName) (level : Nat) : Bool :=
  match s.chunk? n with
  | some x => level < x.required
  | none => false

/-- A fall withdraws an outstanding offer whose chunk requires more (R91, R162 step 2). -/
def State.fallOffer (s : State) (q : PortNo) (level : Nat) : State :=
  match (s.handoff q).offer with
  | some o => if s.requiresMore o.chunk level then s.withdrawOffer q true true else s
  | none => s

/-- A fall clears a reservation whose chunk requires more (R97, R162 step 2). -/
def State.fallReservation (s : State) (q : PortNo) (level : Nat) : State :=
  match (s.handoff q).reservation with
  | some n => if s.requiresMore n level then s.dropReservation q else s
  | none => s

/-- A station's level that differs from what it was is carried to its attached link (R161, R162). -/
def State.carryClearance (s : State) (station old level : Nat) : State :=
  match s.portOfStation station with
  | none => s
  | some q =>
    if old = level then s
    else
      let s := s.updLink q (fun l => { l with clearance := level })
      if level < old then (s.fallOffer q level).fallReservation q level
      else s.offerPass? (s.readyPool q)

/-- The clearance table after a write (R161); none when it is full. -/
def writeClearance (t : Table Nat) (station level : Nat) : Option (Table Nat) :=
  if level = 0 then some (Table.drop t station)
  else if (Table.find t station).isSome || t.length < Config.clearanceEntries then
    some (Table.put t station level)
  else none

/-- SET_CLEARANCE(station id, level) (R161, R162). -/
def execSetClearance (p : PortNo) (tag : Byte) (station level : Nat) (s : State) :
    Host.Outcome State Fault Refusal :=
  s.running (fun s =>
    let c : Cmd := { port := p, tag := tag, code := 0x49 }
    s.asDesk c (fun g =>
      if station = 0 || 65535 < station then g.refuse c .noSuch
      else
        let l := clamp 0 3 level
        match writeClearance g.clearances station l with
        | none => g.refuse c .tableFull
        | some t =>
          let old := (Table.find g.clearances station).getD 0
          (State.carryClearance { g with clearances := t } station old l).replyBoth c (l ≠ level)
            [.level l, .unlisted (.entriesInUse t.length)]))

/-- GET_CLEARANCE(station id) (R161). -/
def execGetClearance (p : PortNo) (tag : Byte) (station : Nat) (s : State) :
    Host.Outcome State Fault Refusal :=
  s.running (fun s =>
    let c : Cmd := { port := p, tag := tag, code := 0x4A }
    s.asDesk c (fun g =>
      if station = 0 || 65535 < station then g.refuse c .noSuch
      else g.ok c [.level ((Table.find g.clearances station).getD 0)]))

/-- STATUS (R163). -/
def execStatus (p : PortNo) (tag : Byte) (s : State) : Host.Outcome State Fault Refusal :=
  s.running (fun s =>
    let c : Cmd := { port := p, tag := tag, code := 0x4B }
    s.asDesk c (fun g =>
      g.ok c [.status g.opState g.clock g.free.count g.takes.length
        (g.takes.filter (fun e => e.2.isOpen)).length g.cueFree g.chunks.length g.deferral.length
        g.arrivalSeq g.log.length g.lowFlag g.overrun]))

/-- One page of a walk: up to 4 records, and the position of the next one or none (R164). -/
def pageItems (walk : List (Nat × Item)) : List Item :=
  (walk.take Config.pageRecords).map (·.2) ++ [.next ((walk.drop Config.pageRecords).head?.map (·.1))]

/-- A walk from a position on: START or the first record at or after it (R164). -/
def walkFrom (walk : List (Nat × Item)) (start : Nat) : List (Nat × Item) :=
  if start = listStart then walk else walk.filter (fun e => start ≤ e.1)

/-- LIST_TAKES(from) (R164): take records that are not FREE, by slot. -/
def execListTakes (p : PortNo) (tag : Byte) (start : Nat) (s : State) :
    Host.Outcome State Fault Refusal :=
  s.running (fun s =>
    let c : Cmd := { port := p, tag := tag, code := 0x4C }
    s.asDesk c (fun g =>
      g.ok c (pageItems (walkFrom (g.takes.map (fun e => (e.1, .take e.2.summary))) start))))

/-- LIST_CUES(take, from) (R164): the cue list in list order, from START or a cue index on it. -/
def execListCues (p : PortNo) (tag : Byte) (take start : Nat) (s : State) :
    Host.Outcome State Fault Refusal :=
  s.running (fun s =>
    let c : Cmd := { port := p, tag := tag, code := 0x4D }
    s.asDesk c (fun g =>
      match g.take? take with
      | none => g.refuse c .noSuch
      | some t =>
        let walk := t.cues.map (fun e => (e.index, Item.cue take e))
        if start = listStart then g.ok c (pageItems walk)
        else if t.cues.any (fun e => e.index = start) then
          g.ok c (pageItems (walk.dropWhile (fun e => e.1 ≠ start)))
        else g.refuse c .noSuch))

/-- The walk of the PARKED chunks, ascending arrival (R164). -/
def State.parkedWalk (s : State) : List (Nat × Item) :=
  (sortChunks .arrival (s.chunks.filter (fun x => x.state = .parked))).map
    (fun x => (x.arrival, .chunk x.summary))

/-- The walk of a pool's queue by place, counted from 1 (R164). -/
def State.queueWalk (s : State) (k : PoolId) : List (Nat × Item) :=
  (s.queue k).mapIdx (fun i x => (i + 1, .chunk x.summary))

/-- LIST_CHUNKS by take, pool or PARKED (R164); a form or selector outside the encoding is refused with NO_SUCH
(R167). -/
def execListChunks (p : PortNo) (tag : Byte) (form selector start : Nat) (s : State) :
    Host.Outcome State Fault Refusal :=
  s.running (fun s =>
    let c : Cmd := { port := p, tag := tag, code := 0x4E }
    s.asDesk c (fun g =>
      match form with
      | 1 =>
        if (g.take? selector).isSome then
          g.ok c (pageItems (walkFrom ((g.chunksOf selector).map
            (fun x => (x.name.ordinal, .chunk x.summary))) start))
        else g.refuse c .noSuch
      | 2 =>
        match targetOf selector with
        | some (some k) => g.ok c (pageItems (walkFrom (g.queueWalk k) start))
        | some none => g.ok c (pageItems (walkFrom g.parkedWalk start))
        | none => g.refuse c .noSuch
      | 3 =>
        if selector = 0 then g.ok c (pageItems (walkFrom g.parkedWalk start)) else g.refuse c .noSuch
      | _ => g.refuse c .noSuch))

/-- The values GET_LINKS gives for one port (R152). -/
def Link.items (l : Link) : List Item :=
  [.unlisted (.portState l.state), .role l.role, .station l.station, .level l.clearance,
   .unlisted (.errorCount l.errorCount)]

/-- GET_LINKS (R152).  DESIGN CHOICE (log 39): the ports stand in the reply in ascending order; the rule says
"for each port" only. -/
def execGetLinks (p : PortNo) (tag : Byte) (s : State) : Host.Outcome State Fault Refusal :=
  s.running (fun s =>
    let c : Cmd := { port := p, tag := tag, code := 0x4F }
    s.asDesk c (fun g => g.ok c (.count g.dropTime :: allPorts.flatMap (fun q => (g.link q).items))))

end Sys2Proof.Machine
end

