-- ==== Sys2Proof/Machine/PedalCommands.lean ====
section
/-!
DEFINITION. Sys2Proof/Machine/PedalCommands.lean: the pedal family (7.2) and the pacing event of a player (7.3).
-/

namespace Sys2Proof.Machine

/-- Checks 1 and 2 of R115: a TYPIST or READER port with its context. -/
def State.asPlayer (s : State) (c : Cmd) (f : State → Ctx → State) : State :=
  s.onCommand c (fun _ g =>
    if (g.link c.port).role = some .typist || (g.link c.port).role = some .reader then
      match g.ctx c.port with
      | none => g.refuse c .noSuch
      | some x => f g x
    else g.refuse c .wrongRole)

/-- The cursor and mode every pedal reply carries (R115). -/
def State.pedalItems (s : State) (p : PortNo) : List Item :=
  match s.ctx p with
  | some x => [.time x.cursor, .unlisted (.mode x.mode)]
  | none => []

/-- An accepted move: the context with its new cursor and stack, the effects of R120, the reply with the items
in front of cursor and mode, and what follows the reply. -/
def State.move (s : State) (c : Cmd) (x : Ctx) (changed : Bool) (items : List Item) : State :=
  let s := (s.setCtx c.port (some x)).afterMove c.port
  let s := s.replyBoth c changed (items ++ s.pedalItems c.port)
  s.afterMoveReply c.port (x.mode ≠ .stopped)

/-- Push the cursor on the position stack: the newest 8 are kept (R118). -/
def Ctx.push (x : Ctx) : Ctx := { x with stack := (x.cursor :: x.stack).take Config.stackDepth }

/-- The cursor clamped to the bounds. -/
def Ctx.clampTo (x : Ctx) (target : Nat) : Nat := clamp x.startBound x.endBound target

/-- Mode PLAYING with pacing on data (R119). -/
def Ctx.started (x : Ctx) : Ctx := { x with mode := .playing, pacing := .onData }

/-- PLAY (R119): from STOPPED below the end bound it starts; at the end bound OK and then PLAY_END. -/
def execPlay (p : PortNo) (tag : Byte) (s : State) : Host.Outcome State Fault Refusal :=
  s.running (fun s =>
    let c : Cmd := { port := p, tag := tag, code := 0x20 }
    s.asPlayer c (fun g x =>
      if x.mode = .stopped then
        if x.cursor < x.endBound then
          let g := g.setCtx p (some x.started)
          ((g.ok c (g.pedalItems p)).askReads p).sendIfCovered p
        else (g.ok c (g.pedalItems p)).notify p (.playEnd x.take x.cursor)
      else g.ok c (g.pedalItems p)))

/-- STOP (R119). -/
def execStop (p : PortNo) (tag : Byte) (s : State) : Host.Outcome State Fault Refusal :=
  s.running (fun s =>
    let c : Cmd := { port := p, tag := tag, code := 0x21 }
    s.asPlayer c (fun g _ =>
      let g := g.stopCtx p
      g.ok c (g.pedalItems p)))

/-- STEP_BACK(n) (R116). -/
def execStepBack (p : PortNo) (tag : Byte) (n : Nat) (s : State) :
    Host.Outcome State Fault Refusal :=
  s.running (fun s =>
    let c : Cmd := { port := p, tag := tag, code := 0x22 }
    s.asPlayer c (fun g x =>
      let target := x.clampTo (x.cursor - even n)
      g.move c { x with cursor := target }
        (even n ≠ n || x.cursor < even n || target ≠ x.cursor - even n) []))

/-- STEP_AHEAD(n) (R116). -/
def execStepAhead (p : PortNo) (tag : Byte) (n : Nat) (s : State) :
    Host.Outcome State Fault Refusal :=
  s.running (fun s =>
    let c : Cmd := { port := p, tag := tag, code := 0x23 }
    s.asPlayer c (fun g x =>
      let target := x.clampTo (x.cursor + even n)
      g.move c { x with cursor := target } (even n ≠ n || target ≠ x.cursor + even n) []))

/-- SEEK(t) (R116). -/
def execSeek (p : PortNo) (tag : Byte) (time : Nat) (s : State) :
    Host.Outcome State Fault Refusal :=
  s.running (fun s =>
    let c : Cmd := { port := p, tag := tag, code := 0x24 }
    s.asPlayer c (fun g x =>
      let target := x.clampTo (even time)
      g.move c { x with cursor := target } (target ≠ time) []))

/-- The cue SEEK_CUE chooses (R117). -/
def Ctx.seekCue (x : Ctx) (cues : List Cue) (d : Direction) (kinds : Nat) : Option Cue :=
  match d with
  | .next => cues.find? (fun e => kindIn kinds e.kind && x.cursor < e.time && e.time ≤ x.endBound)
  | .previous =>
    (cues.filter (fun e =>
      kindIn kinds e.kind && x.startBound ≤ e.time && e.time < x.cursor)).getLast?

/-- The cue list of a take; empty when there is none. -/
def State.cuesOf (s : State) (take : Nat) : List Cue :=
  match s.take? take with
  | some t => t.cues
  | none => []

/-- SEEK_CUE(direction, kind set) (R115 check 3, R117). -/
def execSeekCue (p : PortNo) (tag : Byte) (direction kinds : Nat) (s : State) :
    Host.Outcome State Fault Refusal :=
  s.running (fun s =>
    let c : Cmd := { port := p, tag := tag, code := 0x25 }
    s.asPlayer c (fun g x =>
      match directionOf direction with
      | none => g.refuse c .noSuch
      | some d =>
        if kindSetOk kinds then
          match x.seekCue (g.cuesOf x.take) d kinds with
          | none => g.refuse c .noSuch
          | some e => g.move c { x with cursor := e.time } false [.cueIndex (some e.index)]
        else g.refuse c .noSuch))

/-- JUMP_TIME(t) (R118): push, then seek. -/
def execJumpTime (p : PortNo) (tag : Byte) (time : Nat) (s : State) :
    Host.Outcome State Fault Refusal :=
  s.running (fun s =>
    let c : Cmd := { port := p, tag := tag, code := 0x26 }
    s.asPlayer c (fun g x =>
      let target := x.clampTo (even time)
      g.move c { x.push with cursor := target } (target ≠ time) []))

/-- JUMP_CUE(cue index) (R118): push, then move to the cue's time clamped to the bounds. -/
def execJumpCue (p : PortNo) (tag : Byte) (cue : Nat) (s : State) :
    Host.Outcome State Fault Refusal :=
  s.running (fun s =>
    let c : Cmd := { port := p, tag := tag, code := 0x27 }
    s.asPlayer c (fun g x =>
      match (g.cuesOf x.take).find? (fun e => e.index = cue) with
      | none => g.refuse c .noSuch
      | some e =>
        g.move c { x.push with cursor := x.clampTo e.time } (x.clampTo e.time ≠ e.time) []))

/-- BACKTRACK (R118): pop the top value into the cursor. -/
def execBacktrack (p : PortNo) (tag : Byte) (s : State) : Host.Outcome State Fault Refusal :=
  s.running (fun s =>
    let c : Cmd := { port := p, tag := tag, code := 0x28 }
    s.asPlayer c (fun g x =>
      match x.stack with
      | [] => g.refuse c .noSuch
      | top :: rest => g.move c { x with cursor := top, stack := rest } false []))

/-- PLAY_FRAME_DUE (R122, R124): a PLAYING context whose pacing falls due sends the frame at the cursor, or
stalls with one PLAY_STALL when the read-ahead does not cover it.
DESIGN CHOICE (log 42): the pacing of a stalled context stays at the due moment that passed; R124 gives it no
value. -/
def execPlayFrameDue (p : PortNo) (s : State) : Host.Outcome State Fault Refusal :=
  s.running (fun s =>
    match s.ctx p with
    | none => s
    | some x =>
      if x.mode = .playing && x.pacing = .due && x.kind ≠ .exporting then
        match x.covering with
        | some r => s.sendPlayFrame p x r
        | none =>
          ((s.setCtx p (some { x with mode := .stalled })).notify p
            (.playStall x.take x.cursor)).askReads p
      else s)

end Sys2Proof.Machine
end

