-- ==== Sys2Proof/Machine/RecorderCommands.lean ====
section
/-!
DEFINITION. Sys2Proof/Machine/RecorderCommands.lean: the recorder family (Chapters 1, 2 and 8): audio frames and the
recorder commands, readback among them.
-/

namespace Sys2Proof.Machine

/-- AUDIO_SPEECH (R145, R30, R33): handed to the IU when the role is RECORDER or READER. -/
def execAudioSpeech (p : PortNo) (coded : Coded) (s : State) : Host.Outcome State Fault Refusal :=
  s.running (fun s => s.onFrame p (fun g =>
    if (g.link p).role = some .recorder || (g.link p).role = some .reader then
      g.takeAudio p (.speech coded)
    else g))

/-- AUDIO_SILENCE (R31, R34): a count over 250 is taken as 250, and a count of 0 is ignored. -/
def execAudioSilence (p : PortNo) (count : Nat) (s : State) : Host.Outcome State Fault Refusal :=
  s.running (fun s => s.onFrame p (fun g =>
    if ((g.link p).role = some .recorder || (g.link p).role = some .reader) && count ≠ 0 then
      g.takeAudio p (.silence (min count 250))
    else g))

/-- Allocate a record for a new take and prepare the port (R1, R2, R24). -/
def State.openNew (s : State) (c : Cmd) (matter : Nat) : State :=
  match s.freeSlot with
  | none => s.refuse c .tableFull
  | some slot =>
    let t := s.openedTake c.port matter
    let s := { s with takes := Table.put s.takes slot t, takeIdCounter := bumpId t.id }
    let s := s.setIntake c.port (s.intake c.port).fresh
    s.ok c [.takeId t.id]

/-- Checks 2 and 3 of R23 for OPEN_TAKE. -/
def State.opening (s : State) (c : Cmd) (f : State → State) : State :=
  s.asRecorder c (fun _ g =>
    if g.opState = .setup then g.refuse c .notRunning
    else if (g.linkTake c.port).isSome then g.refuse c .wrongState
    else f g)

/-- OPEN_TAKE without the continue option (R23, R24). -/
def execOpenTake (p : PortNo) (tag : Byte) (matter : Nat) (s : State) :
    Host.Outcome State Fault Refusal :=
  s.running (fun s =>
    let c : Cmd := { port := p, tag := tag, code := 0x10 }
    s.opening c (fun g => g.openNew c matter))

/-- A held block of a re-adopted take: it stays when it is on this port, and closes at once when it is on
another (R39). -/
def State.readoptBlock (s : State) (p : PortNo) (take : Nat) : State :=
  if s.openPort take = some p then s else s.closeOpenBlock take

/-- Re-adoption of an orphaned take of the attached station (R10). -/
def State.readopt (s : State) (c : Cmd) (take : Nat) : State :=
  match s.take? take with
  | none => s.refuse c .noSuch
  | some t =>
    if t.isOrphaned && (s.link c.port).station = some t.station then
      let s := s.updTake take (fun t => { t with recPort := some c.port })
      let s := s.readoptBlock c.port take
      s.ok c [.takeId take]
    else s.refuse c .noSuch

/-- OPEN_TAKE with the continue option (R10, R23); the matter operand is not used. -/
def execOpenTakeContinue (p : PortNo) (tag : Byte) (_matter take : Nat) (s : State) :
    Host.Outcome State Fault Refusal :=
  s.running (fun s =>
    let c : Cmd := { port := p, tag := tag, code := 0x10 }
    s.opening c (fun g => g.readopt c take))

/-- PAUSE (R5); the Split Engine is signalled when the cue is placed (R12, R13). -/
def execPause (p : PortNo) (tag : Byte) (s : State) : Host.Outcome State Fault Refusal :=
  s.running (fun s =>
    let c : Cmd := { port := p, tag := tag, code := 0x11 }
    s.onTake c (fun _ g t =>
      if t.state = .recording then
        let placed := ((g.endRun p).closeGap p t.id t.endTime).admitsOrdinary
        let g := g.pauseTake p t (fun g => g.placeIfAdmitted t.id t.endTime .pause none .recorder)
        (if placed then g.signalCue t.id t.endTime .pause else g).ok c []
      else g.refuse c .wrongState))

/-- RESUME (R5). -/
def execResume (p : PortNo) (tag : Byte) (s : State) : Host.Outcome State Fault Refusal :=
  s.running (fun s =>
    let c : Cmd := { port := p, tag := tag, code := 0x12 }
    s.onTake c (fun _ g t =>
      if t.state = .paused then
        ((g.placeIfAdmitted t.id t.endTime .resume none .recorder).updTake t.id
          (fun t => { t with state := .recording })).ok c []
      else g.refuse c .wrongState))

/-- CLOSE_TAKE from the recorder (R6): TAKE_BUSY in READBACK. -/
def execCloseTake (p : PortNo) (tag : Byte) (s : State) : Host.Outcome State Fault Refusal :=
  s.running (fun s =>
    let c : Cmd := { port := p, tag := tag, code := 0x13 }
    s.onTake c (fun _ g t =>
      if t.state = .readback then g.refuse c .takeBusy else (g.closeTake t false).ok c []))

/-- A take that is RECORDING or PAUSED, else WRONG_STATE (R16, R17, R25). -/
def State.inDictation (s : State) (c : Cmd) (f : State → Take → State) : State :=
  s.onTake c (fun _ g t =>
    if t.state = .recording || t.state = .paused then f g t else g.refuse c .wrongState)

/-- The number a MARK places: a speaker number is clamped to 0..63 (R25). -/
def markNumber (k : CueKind) (number : Nat) : Nat :=
  if k = .speaker then clamp 0 63 number else number

/-- MARK (R25): an unknown kind is refused with NO_SUCH after check 3 of R23. -/
def execMark (p : PortNo) (tag : Byte) (kind number : Nat) (s : State) :
    Host.Outcome State Fault Refusal :=
  s.running (fun s =>
    let c : Cmd := { port := p, tag := tag, code := 0x14 }
    s.onTake c (fun _ g t =>
      match markKind kind with
      | none => g.refuse c .noSuch
      | some k =>
        if t.state = .recording || t.state = .paused then
          if g.admitsOrdinary then
            let n := markNumber k number
            ((g.placeCue t.id t.endTime k (some n) .recorder).signalCue t.id t.endTime k).replyClamped c
              (n ≠ number) [.number n]
          else g.refuse c .tableFull
        else g.refuse c .wrongState))

/-- OFF_RECORD_BEGIN (R16). -/
def execOffRecordBegin (p : PortNo) (tag : Byte) (s : State) : Host.Outcome State Fault Refusal :=
  s.running (fun s =>
    let c : Cmd := { port := p, tag := tag, code := 0x15 }
    s.inDictation c (fun g t =>
      if t.offRecordOpen then g.refuse c .spanOpen
      else if g.admitsOrdinary then
        (((g.placeCue t.id t.endTime .offRecordBegin none .recorder).updTake t.id
          (fun t => { t with offRecordOpen := true })).signalCue t.id t.endTime .offRecordBegin).ok c []
      else g.refuse c .tableFull))

/-- OFF_RECORD_END (R16, R14). -/
def execOffRecordEnd (p : PortNo) (tag : Byte) (s : State) : Host.Outcome State Fault Refusal :=
  s.running (fun s =>
    let c : Cmd := { port := p, tag := tag, code := 0x16 }
    s.inDictation c (fun g t =>
      if t.offRecordOpen then
        if g.admitsClosing then
          (((g.placeCue t.id t.endTime .offRecordEnd t.openOffRecord .recorder).updTake t.id
            (fun t => { t with offRecordOpen := false })).signalCue t.id t.endTime .offRecordEnd).ok c []
        else g.refuse c .tableFull
      else g.refuse c .noSpan))

/-- RESTRICT_BEGIN (R17): the level is clamped to 1..3 and the flag takes the new cue's index. -/
def execRestrictBegin (p : PortNo) (tag : Byte) (level : Nat) (s : State) :
    Host.Outcome State Fault Refusal :=
  s.running (fun s =>
    let c : Cmd := { port := p, tag := tag, code := 0x17 }
    s.inDictation c (fun g t =>
      if t.restrictOpen.isSome then g.refuse c .spanOpen
      else if g.admitsOrdinary then
        let l := clamp 1 3 level
        let i := g.lowestCue
        (((g.placeCue t.id t.endTime .restrictBegin (some l) .recorder).updTake t.id
          (fun t => { t with restrictOpen := i })).signalCue t.id t.endTime .restrictBegin).replyClamped c
            (l ≠ level) [.level l]
      else g.refuse c .tableFull))

/-- RESTRICT_END (R17, R14). -/
def execRestrictEnd (p : PortNo) (tag : Byte) (s : State) : Host.Outcome State Fault Refusal :=
  s.running (fun s =>
    let c : Cmd := { port := p, tag := tag, code := 0x18 }
    s.inDictation c (fun g t =>
      if t.restrictOpen.isSome then
        if g.admitsClosing then
          (((g.placeCue t.id t.endTime .restrictEnd t.restrictOpen .recorder).updTake t.id
            (fun t => { t with restrictOpen := none })).signalCue t.id t.endTime .restrictEnd).ok c []
        else g.refuse c .tableFull
      else g.refuse c .noSpan))

/-- The take time a READBACK_BEGIN target names, with whether it lies before the start of the take (R133);
none for a CUE target that is not on the list. -/
def Take.target (t : Take) (form : TargetForm) (value : Nat) : Option (Nat × Bool) :=
  match form with
  | .abs => some (value, false)
  | .back => some (t.endTime - value, t.endTime < value)
  | .cue => (t.cues.find? (fun c => c.index = value)).map (fun c => (c.time, false))

/-- The swap of an accepted READBACK_BEGIN (R134). -/
def State.beginReadback (s : State) (c : Cmd) (t : Take) (named : Nat) (below : Bool) : State :=
  let cursor := clamp 0 t.endTime (even named)
  let i := s.ordinaryIndex
  let s := s.updTake t.id (fun t => { t with state := .readback })
  let s := s.placeIfAdmitted t.id t.endTime .readbackBegin none .recorder
  let s := s.updLink c.port (fun l => { l with role := some .reader })
  let s := s.clearDiscard c.port
  let s := s.createCtx c.port .reader t.id 0 t.endTime cursor .stopped false
  s.replyBoth c (below || cursor ≠ named) [.takeId t.id, .time cursor, .time t.endTime, .cueIndex i]

/-- READBACK_BEGIN (R132, R133, R134). -/
def execReadbackBegin (p : PortNo) (tag : Byte) (form value : Nat) (s : State) :
    Host.Outcome State Fault Refusal :=
  s.running (fun s =>
    let c : Cmd := { port := p, tag := tag, code := 0x19 }
    s.onTake c (fun wasQuiet g t =>
      match targetForm form with
      | none => g.refuse c .noSuch
      | some k =>
        if t.state ≠ .paused then g.refuse c .notPaused
        else if wasQuiet then g.refuse c .wrongState
        else
          match t.target k value with
          | none => g.refuse c .noSuch
          | some (named, below) => g.beginReadback c t named below))

/-- READBACK_END (R139). -/
def execReadbackEnd (p : PortNo) (tag : Byte) (s : State) : Host.Outcome State Fault Refusal :=
  s.running (fun s =>
    let c : Cmd := { port := p, tag := tag, code := 0x1A }
    s.onTake c (fun _ g t =>
      if t.state = .readback then
        (g.endReadback p t .recorder false).ok c [.takeId t.id, .cueIndex g.closingIndex]
      else g.refuse c .wrongState))

end Sys2Proof.Machine
end

