-- ==== Sys2Proof/Machine/SettingCommands.lean ====
section
/-!
DEFINITION. Sys2Proof/Machine/SettingCommands.lean: the settings family: operating state, setting writes and their
reads (Chapters 2, 3, 4, 5, 6, 9 and 10).
-/

namespace Sys2Proof.Machine

/-- An ENTER_SETUP condition that is unmet (R158). -/
def State.setupUnmet (s : State) : Option Unmet :=
  if s.takes.any (fun e => e.2.isOpen) then some .takesOpen
  else if s.chunks.any (fun c => c.state = .offered || c.state = .held || c.state = .lapsing) then
    some .chunksInWork
  else none

/-- Step 1 of ENTER_SETUP: reservations and lapsed offers absent, ready lists empty (R158). -/
def State.clearWork (s : State) : State :=
  { s with
    ports := s.ports.map (fun q =>
      { q with handoff := { q.handoff with lapsed := none, reservation := none } })
    pools := { a := { s.pools.a with ready := [] }, b := { s.pools.b with ready := [] },
               c := { s.pools.c with ready := [] }, d := { s.pools.d with ready := [] } } }

/-- ENTER_SETUP (R157, R158). -/
def execEnterSetup (p : PortNo) (tag : Byte) (s : State) : Host.Outcome State Fault Refusal :=
  s.running (fun s =>
    let c : Cmd := { port := p, tag := tag, code := 0x50 }
    s.asDesk c (fun g =>
      if g.opState = .setup then g.refuse c .wrongState
      else
        match g.setupUnmet with
        | some u => g.refuseUnmet c u
        | none => State.ok { g.clearWork with opState := .setup } c []))

/-- LEAVE_SETUP (R74, R159). -/
def execLeaveSetup (p : PortNo) (tag : Byte) (s : State) : Host.Outcome State Fault Refusal :=
  s.running (fun s =>
    let c : Cmd := { port := p, tag := tag, code := 0x51 }
    s.asDesk c (fun g =>
      if g.opState = .setup then State.ok { g.recompute with opState := .run } c []
      else g.refuse c .wrongState))

/-- An action from its operand codes, turnaround and floor clamped (R28); none for a code outside its set. -/
def actionOf (target turnaround whole floor : Nat) : Option Action :=
  match targetOf target, yesNo whole with
  | some t, some w =>
    some { target := t, turnaround := clamp 600 2592000 turnaround, whole := w,
           floor := clamp 0 3 floor }
  | _, _ => none

/-- The reply values of an action. -/
def Action.items (a : Action) : List Item :=
  [.pool a.target, .count a.turnaround, .flag a.whole, .level a.floor]

/-- The reply values of a filter element (R28). -/
def FilterElem.items (e : FilterElem) : List Item :=
  [.flag e.enabled, .filterKind e.kind, .matter e.first, .matter e.second] ++ e.action.items

/-- SET_FILTER (R28). -/
def execSetFilter (p : PortNo) (tag : Byte)
    (index enabled kind first second target turnaround whole floor : Nat) (s : State) :
    Host.Outcome State Fault Refusal :=
  s.running (fun s =>
    let c : Cmd := { port := p, tag := tag, code := 0x52 }
    s.asSetting c (fun g =>
      if h : index < 32 then
        match yesNo enabled, filterKindOf kind, actionOf target turnaround whole floor with
        | some en, some k, some a =>
          let e : FilterElem := { enabled := en, kind := k, first := first, second := second, action := a }
          State.replyClamped { g with filter := g.filter.set index e h } c
            (a.turnaround ≠ turnaround || a.floor ≠ floor) e.items
        | _, _, _ => g.refuse c .noSuch
      else g.refuse c .noSuch))

/-- SET_DEFAULT_ACTION (R28). -/
def execSetDefaultAction (p : PortNo) (tag : Byte) (target turnaround whole floor : Nat)
    (s : State) : Host.Outcome State Fault Refusal :=
  s.running (fun s =>
    let c : Cmd := { port := p, tag := tag, code := 0x53 }
    s.asSetting c (fun g =>
      match actionOf target turnaround whole floor with
      | some a =>
        State.replyClamped { g with defaultAction := a } c
          (a.turnaround ≠ turnaround || a.floor ≠ floor) a.items
      | none => g.refuse c .noSuch))

/-- SET_PAUSE_THRESHOLD (R28). -/
def execSetPauseThreshold (p : PortNo) (tag : Byte) (threshold : Nat) (s : State) :
    Host.Outcome State Fault Refusal :=
  s.running (fun s =>
    let c : Cmd := { port := p, tag := tag, code := 0x54 }
    s.asSetting c (fun g =>
      let v := clamp 40 1000 threshold
      State.replyClamped { g with pauseThreshold := v } c (v ≠ threshold) [.count v]))

/-- SET_WATERMARK (R57): the reply carries the watermark and the free count; then the low test is made. -/
def execSetWatermark (p : PortNo) (tag : Byte) (blocks : Nat) (s : State) :
    Host.Outcome State Fault Refusal :=
  s.running (fun s =>
    let c : Cmd := { port := p, tag := tag, code := 0x55 }
    s.asSetting c (fun g =>
      let v := clamp 0 65535 blocks
      (State.replyBoth { g with watermark := v } c (v ≠ blocks)
        [.count v, .unlisted (.blockCount g.free.count)]).testLow))

/-- L in effect (R59 step 1). -/
def splitLength (length : Nat) : Nat := even (clamp 6000 180000 length)

/-- W in effect, against the clamped L (R59 step 2). -/
def splitWindow (length window : Nat) : Nat := even (clamp 0 (splitLength length / 2) window)

/-- V in effect, against the clamped L (R59 step 3). -/
def splitLeadIn (length leadIn : Nat) : Nat :=
  even (clamp 0 (min 3000 (splitLength length / 4)) leadIn)

/-- SET_POOL_SPLIT (R59). -/
def execSetPoolSplit (p : PortNo) (tag : Byte) (pool length window leadIn ratio : Nat)
    (s : State) : Host.Outcome State Fault Refusal :=
  s.running (fun s =>
    let c : Cmd := { port := p, tag := tag, code := 0x56 }
    s.asSetting c (fun g =>
      match poolOf pool with
      | none => g.refuse c .noSuch
      | some k =>
        let l := splitLength length
        let w := splitWindow length window
        let v := splitLeadIn length leadIn
        let q := clamp 4 64 ratio
        let r : Pool := { g.pool k with length := l, window := w, leadIn := v, ratio := q }
        (g.setPool k r).replyBoth c (l ≠ length || w ≠ window || v ≠ leadIn || q ≠ ratio)
          [.count l, .count w, .count v, .ratio q, .unlisted (.minimumTail r.minimumTail)]))

/-- SET_POOL_MODE (R76): the queue is sorted by the discipline in effect (R78). -/
def execSetPoolMode (p : PortNo) (tag : Byte) (pool discipline reoffer : Nat) (s : State) :
    Host.Outcome State Fault Refusal :=
  s.running (fun s =>
    let c : Cmd := { port := p, tag := tag, code := 0x57 }
    s.asSetting c (fun g =>
      match poolOf pool, disciplineOf discipline, yesNo reoffer with
      | some k, some d, some r =>
        (g.setPool k { g.pool k with discipline := d, reoffer := r }).ok c []
      | _, _, _ => g.refuse c .noSuch))

/-- SET_OFFER_TIMEOUT (R77). -/
def execSetOfferTimeout (p : PortNo) (tag : Byte) (seconds : Nat) (s : State) :
    Host.Outcome State Fault Refusal :=
  s.running (fun s =>
    let c : Cmd := { port := p, tag := tag, code := 0x58 }
    s.asSetting c (fun g =>
      let v := clamp 5 255 seconds
      State.replyClamped { g with offerTimeout := v } c (v ≠ seconds) [.count v]))

/-- SET_GRACE (R103). -/
def execSetGrace (p : PortNo) (tag : Byte) (seconds : Nat) (s : State) :
    Host.Outcome State Fault Refusal :=
  s.running (fun s =>
    let c : Cmd := { port := p, tag := tag, code := 0x59 }
    s.asSetting c (fun g =>
      let v := clamp 60 7200 seconds
      State.replyClamped { g with grace := v } c (v ≠ seconds) [.count v]))

/-- SET_DROP_TIME (R152): a running drop timer keeps its own. -/
def execSetDropTime (p : PortNo) (tag : Byte) (seconds : Nat) (s : State) :
    Host.Outcome State Fault Refusal :=
  s.running (fun s =>
    let c : Cmd := { port := p, tag := tag, code := 0x5A }
    s.asSetting c (fun g =>
      let v := clamp 10 600 seconds
      State.replyClamped { g with dropTime := v } c (v ≠ seconds) [.count v]))

/-- GET_FILTER (R28). -/
def execGetFilter (p : PortNo) (tag : Byte) (index : Nat) (s : State) :
    Host.Outcome State Fault Refusal :=
  s.running (fun s =>
    let c : Cmd := { port := p, tag := tag, code := 0x5B }
    s.asDesk c (fun g =>
      if h : index < 32 then g.ok c g.filter[index].items else g.refuse c .noSuch))

/-- GET_INTAKE (R28). -/
def execGetIntake (p : PortNo) (tag : Byte) (s : State) : Host.Outcome State Fault Refusal :=
  s.running (fun s =>
    let c : Cmd := { port := p, tag := tag, code := 0x5C }
    s.asDesk c (fun g => g.ok c (g.defaultAction.items ++ [.count g.pauseThreshold])))

/-- GET_POOL(pool) (R59, R76). -/
def execGetPool (p : PortNo) (tag : Byte) (pool : Nat) (s : State) :
    Host.Outcome State Fault Refusal :=
  s.running (fun s =>
    let c : Cmd := { port := p, tag := tag, code := 0x5D }
    s.asDesk c (fun g =>
      match poolOf pool with
      | none => g.refuse c .noSuch
      | some k =>
        let q := g.pool k
        g.ok c [.count q.length, .count q.window, .count q.leadIn,
          .unlisted (.minimumTail q.minimumTail), .ratio q.ratio, .discipline q.discipline,
          .reoffer q.reoffer, .unlisted (.queueLength (g.queue k).length),
          .unlisted (.queuePending ((g.queue k).filter (fun x => x.state = .pending)).length),
          .unlisted (.readyLength q.ready.length)]))

/-- GET_HANDOFF (R103). -/
def execGetHandoff (p : PortNo) (tag : Byte) (s : State) : Host.Outcome State Fault Refusal :=
  s.running (fun s =>
    let c : Cmd := { port := p, tag := tag, code := 0x5E }
    s.asDesk c (fun g => g.ok c [.count g.grace, .count g.offerTimeout]))

end Sys2Proof.Machine
end

