-- ==== Sys2Proof/Machine/TypistCommands.lean ====
section
/-!
DEFINITION. Sys2Proof/Machine/TypistCommands.lean: the typist family: ready lists and offers (Chapter 5),
reservations, holds and their ends (Chapter 6), and the offer and grace timers.
-/

namespace Sys2Proof.Machine

/-- READY(pool) (R81): checked in order; the reply precedes the offer pass. -/
def execReady (p : PortNo) (tag : Byte) (pool : Nat) (s : State) :
    Host.Outcome State Fault Refusal :=
  s.running (fun s =>
    let c : Cmd := { port := p, tag := tag, code := 0x30 }
    s.asTypist c (fun g =>
      if g.opState = .setup then g.refuse c .notRunning
      else
        match poolOf pool with
        | none => g.refuse c .noSuch
        | some k =>
          if g.isHolding p then g.refuse c .holding
          else if (g.handoff p).offer.isSome then g.refuse c .wrongState
          else
            let g := g.joinReady p k
            (g.ok c [.pool (some k), .unlisted (.readyPosition (g.pool k).ready.length)]).offerPass k))

/-- UNREADY (R82). -/
def execUnready (p : PortNo) (tag : Byte) (s : State) : Host.Outcome State Fault Refusal :=
  s.running (fun s =>
    let c : Cmd := { port := p, tag := tag, code := 0x31 }
    s.asTypist c (fun g => (g.leaveReady p).ok c []))

/-- The chunk a PEEK finds: the first PENDING chunk of the queue at or below the clearance (R95). -/
def State.peekChunk (s : State) (p : PortNo) (k : PoolId) : Option Chunk :=
  (s.queue k).find? (fun c => c.state = .pending && c.required ≤ (s.link p).clearance)

/-- PEEK(pool) (R95). -/
def execPeek (p : PortNo) (tag : Byte) (pool : Nat) (s : State) :
    Host.Outcome State Fault Refusal :=
  s.running (fun s =>
    let c : Cmd := { port := p, tag := tag, code := 0x32 }
    s.asTypist c (fun g =>
      if g.opState = .setup then g.refuse c .notRunning
      else
        match poolOf pool with
        | none => g.refuse c .noSuch
        | some k =>
          match g.peekChunk p k with
          | none => (g.dropReservation p).refuse c .empty
          | some x =>
            (g.setHandoff p { g.handoff p with reservation := some x.name }).ok c
              [.chunk x.summary]))

/-- The claim of a reserved chunk: the reservation goes, an outstanding offer of the link is withdrawn, the
chunk is HELD, and the pass of the withdrawal runs (R90, R96, R98). -/
def State.claimChunk (s : State) (p : PortNo) (n : ChunkName) : State :=
  let k := s.offerPool p
  let s := s.dropReservation p
  let s := s.endOffer p Chunk.unoffer true
  let s := s.makeHold p n
  s.offerPass? k

/-- CLAIM (R96): a refusal with HOLDING also clears the reservation. -/
def execClaim (p : PortNo) (tag : Byte) (s : State) : Host.Outcome State Fault Refusal :=
  s.running (fun s =>
    let c : Cmd := { port := p, tag := tag, code := 0x33 }
    s.asTypist c (fun g =>
      if g.opState = .setup then g.refuse c .notRunning
      else if g.isHolding p then (g.dropReservation p).refuse c .holding
      else
        match (g.handoff p).reservation with
        | none => g.refuse c .lost
        | some n =>
          let g := g.claimChunk p n
          g.ok c (g.summaryItems n)))

/-- The answer of an offer (R85, R86): `f` acts on the outstanding offer of the named chunk; otherwise EXPIRED
when the name is the lapsed offer's, and NO_SUCH for any other. -/
def State.answerOffer (s : State) (c : Cmd) (n : ChunkName) (f : State → State) : State :=
  s.asTypist c (fun g =>
    if (g.handoff c.port).offer.map (·.chunk) = some n then f g
    else if (g.handoff c.port).lapsed = some n then g.refuse c .expired
    else g.refuse c .noSuch)

/-- The port's offer becomes absent and its timer is cancelled (R85, R86). -/
def State.cancelOffer (s : State) (p : PortNo) : State :=
  s.setHandoff p { s.handoff p with offer := none }

/-- ACCEPT(take id, ordinal) (R85). -/
def execAccept (p : PortNo) (tag : Byte) (take ordinal : Nat) (s : State) :
    Host.Outcome State Fault Refusal :=
  s.running (fun s =>
    let c : Cmd := { port := p, tag := tag, code := 0x34 }
    let n : ChunkName := { take := take, ordinal := ordinal }
    s.answerOffer c n (fun g =>
      let g := (g.cancelOffer p).makeHold p n
      g.ok c (g.summaryItems n)))

/-- The chunk of a declined offer: PENDING at its place, with its last decliner, and NO_OFFER when the pool's
re-offer is OFF (R86). -/
def Chunk.declined (c : Chunk) (p : PortNo) (reoffer : Bool) : Chunk :=
  { c with state := .pending, offeree := none, lastDecliner := some p,
           noOffer := c.noOffer || !reoffer }

/-- DECLINE(take id, ordinal) (R86). -/
def execDecline (p : PortNo) (tag : Byte) (take ordinal : Nat) (s : State) :
    Host.Outcome State Fault Refusal :=
  s.running (fun s =>
    let c : Cmd := { port := p, tag := tag, code := 0x35 }
    let n : ChunkName := { take := take, ordinal := ordinal }
    s.answerOffer c n (fun g =>
      let k := g.offerPool p
      let reoffer := match k with
        | some k => (g.pool k).reoffer
        | none => true
      let g := (g.cancelOffer p).updChunk n (fun x => x.declined p reoffer)
      (g.ok c []).offerPass? k))

/-- The FINISHED record of a held chunk (R100 step 1). -/
def State.finishedRec (s : State) (x : Chunk) (pages : Nat) : LogRec :=
  { kind := .finished, chunk := x.name, station := x.holderStation, clock := s.clock,
    heldSince := x.heldSince, pages := pages, tooLate := x.recallPending }

/-- FINISH(pages) (R100): log, context, chunks finished, record, reply, deferral list. -/
def execFinish (p : PortNo) (tag : Byte) (pages : Nat) (s : State) :
    Host.Outcome State Fault Refusal :=
  s.running (fun s =>
    let c : Cmd := { port := p, tag := tag, code := 0x36 }
    s.asTypist c (fun g =>
      match g.heldBy p with
      | none => g.refuse c .noSuch
      | some x =>
        let g := g.logWrite (g.finishedRec x pages)
        let g := g.removeCtx p
        let g := g.updTake x.name.take (fun t => { t with chunksFinished := t.chunksFinished + 1 })
        let g := (g.freeChunk x.name).ok c []
        State.serveDeferral g.deferral g))

/-- YIELD (R101, R108): PENDING at its place, or PARKED with recall pending. -/
def execYield (p : PortNo) (tag : Byte) (s : State) : Host.Outcome State Fault Refusal :=
  s.running (fun s =>
    let c : Cmd := { port := p, tag := tag, code := 0x37 }
    s.asTypist c (fun g =>
      match g.heldBy p with
      | none => g.refuse c .noSuch
      | some x =>
        let g := g.removeCtx p
        if x.recallPending then (g.parkChunk x).ok c []
        else ((g.updChunk x.name Chunk.unhold).ok c []).offerPass? x.pool))

/-- A lapsed hold restored on a port (R104 steps 1 to 5). -/
def State.resumeHold (s : State) (p : PortNo) (x : Chunk) : State :=
  let k := s.offerPool p
  let s := s.endOffer p Chunk.unoffer true
  let s := s.updChunk x.name (fun c => { c with
    state := .held, holderPort := some p, graceTimer := none, savedCursor := none,
    noOffer := false, lastDecliner := none })
  let s := s.loadTypist p x.name x.savedCursor
  s.offerPass? k

/-- RESUME_HOLD (R104): clearance is not tested. -/
def execResumeHold (p : PortNo) (tag : Byte) (s : State) : Host.Outcome State Fault Refusal :=
  s.running (fun s =>
    let c : Cmd := { port := p, tag := tag, code := 0x38 }
    s.asTypist c (fun g =>
      if (g.heldBy p).isSome then g.refuse c .holding
      else
        match g.lapsedHoldOf p with
        | none => g.refuse c .noSuch
        | some x =>
          let g := g.resumeHold p x
          g.ok c (g.summaryItems x.name ++ [.time (x.savedCursor.getD x.playStart)])))

/-- OFFER_TIMER_EXPIRY (R87): PENDING again, lapsed offer noted, OFFER_LAPSED, and a pass.  Without an offer
outstanding no timer runs and nothing happens. -/
def execOfferTimerExpiry (p : PortNo) (s : State) : Host.Outcome State Fault Refusal :=
  s.running (fun s =>
    match (s.handoff p).offer with
    | none => s
    | some o =>
      let k := s.offerPool p
      let s := s.setHandoff p { s.handoff p with offer := none, lapsed := some o.chunk }
      let s := s.updChunk o.chunk Chunk.unoffer
      (s.notify p (.offerLapsed o.chunk)).offerPass? k)

/-- The LAPSED record of a lapse that ends (R105 step 1). -/
def State.lapsedRec (s : State) (x : Chunk) : LogRec :=
  { kind := .lapsed, chunk := x.name, station := x.holderStation, clock := s.clock,
    heldSince := x.heldSince, pages := 0, tooLate := false }

/-- GRACE_TIMER_EXPIRY (R105): logged, PENDING with reissues raised to at most 7, and a pass.  Without a
running grace timer on the chunk nothing happens. -/
def execGraceTimerExpiry (take ordinal : Nat) (s : State) : Host.Outcome State Fault Refusal :=
  s.running (fun s =>
    match s.chunk? { take := take, ordinal := ordinal } with
    | none => s
    | some x =>
      if x.state = .lapsing && x.graceTimer.isSome then
        let s := s.logWrite (s.lapsedRec x)
        let s := s.updChunk x.name (fun c => { c with
          state := .pending, holderStation := none, heldSince := none, savedCursor := none,
          graceTimer := none, reissues := min 7 (c.reissues + 1) })
        s.offerPass? x.pool
      else s)

end Sys2Proof.Machine
end

