-- ==== Sys2Proof/Machine/Dispatch.lean ====
section
/-!
DEFINITION. Sys2Proof/Machine/Dispatch.lean: each command to its meaning, one arm per row of the opcode table.
-/

namespace Sys2Proof.Machine

/-- The effect of a command on everything but the queue. -/
def exec (i : Instr) (s : State) : Host.Outcome State Fault Refusal :=
  match i with
  | .powerOnReset => Sys2Proof.Machine.execPowerOnReset s
  | .hardReset => Sys2Proof.Machine.execHardReset s
  | .carrierArrives p => Sys2Proof.Machine.execCarrierArrives p s
  | .carrierLost p => Sys2Proof.Machine.execCarrierLost p s
  | .lineBreak p => Sys2Proof.Machine.execLineBreak p s
  | .badFrame p => Sys2Proof.Machine.execBadFrame p s
  | .frameIgnoredFaulted p => Sys2Proof.Machine.execFrameIgnoredFaulted p s
  | .idle p => Sys2Proof.Machine.execIdle p s
  | .audioSpeech p coded => Sys2Proof.Machine.execAudioSpeech p coded s
  | .audioSilence p count => Sys2Proof.Machine.execAudioSilence p count s
  | .commandUnknown p tag code => Sys2Proof.Machine.execCommandUnknown p tag code s
  | .attach p tag station role mask => Sys2Proof.Machine.execAttach p tag station role mask s
  | .detach p tag => Sys2Proof.Machine.execDetach p tag s
  | .setMask p tag mask => Sys2Proof.Machine.execSetMask p tag mask s
  | .openTake p tag matter => Sys2Proof.Machine.execOpenTake p tag matter s
  | .openTakeContinue p tag matter take => Sys2Proof.Machine.execOpenTakeContinue p tag matter take s
  | .pause p tag => Sys2Proof.Machine.execPause p tag s
  | .resume p tag => Sys2Proof.Machine.execResume p tag s
  | .closeTake p tag => Sys2Proof.Machine.execCloseTake p tag s
  | .mark p tag kind number => Sys2Proof.Machine.execMark p tag kind number s
  | .offRecordBegin p tag => Sys2Proof.Machine.execOffRecordBegin p tag s
  | .offRecordEnd p tag => Sys2Proof.Machine.execOffRecordEnd p tag s
  | .restrictBegin p tag level => Sys2Proof.Machine.execRestrictBegin p tag level s
  | .restrictEnd p tag => Sys2Proof.Machine.execRestrictEnd p tag s
  | .readbackBegin p tag form value => Sys2Proof.Machine.execReadbackBegin p tag form value s
  | .readbackEnd p tag => Sys2Proof.Machine.execReadbackEnd p tag s
  | .play p tag => Sys2Proof.Machine.execPlay p tag s
  | .stop p tag => Sys2Proof.Machine.execStop p tag s
  | .stepBack p tag n => Sys2Proof.Machine.execStepBack p tag n s
  | .stepAhead p tag n => Sys2Proof.Machine.execStepAhead p tag n s
  | .seek p tag time => Sys2Proof.Machine.execSeek p tag time s
  | .seekCue p tag direction kinds => Sys2Proof.Machine.execSeekCue p tag direction kinds s
  | .jumpTime p tag time => Sys2Proof.Machine.execJumpTime p tag time s
  | .jumpCue p tag cue => Sys2Proof.Machine.execJumpCue p tag cue s
  | .backtrack p tag => Sys2Proof.Machine.execBacktrack p tag s
  | .ready p tag pool => Sys2Proof.Machine.execReady p tag pool s
  | .unready p tag => Sys2Proof.Machine.execUnready p tag s
  | .peek p tag pool => Sys2Proof.Machine.execPeek p tag pool s
  | .claim p tag => Sys2Proof.Machine.execClaim p tag s
  | .accept p tag take ordinal => Sys2Proof.Machine.execAccept p tag take ordinal s
  | .decline p tag take ordinal => Sys2Proof.Machine.execDecline p tag take ordinal s
  | .finish p tag pages => Sys2Proof.Machine.execFinish p tag pages s
  | .yield p tag => Sys2Proof.Machine.execYield p tag s
  | .resumeHold p tag => Sys2Proof.Machine.execResumeHold p tag s
  | .closeTakeDesk p tag take => Sys2Proof.Machine.execCloseTakeDesk p tag take s
  | .restrictSpan p tag take start stop level => Sys2Proof.Machine.execRestrictSpan p tag take start stop level s
  | .releaseTake p tag take => Sys2Proof.Machine.execReleaseTake p tag take s
  | .exportBegin p tag take => Sys2Proof.Machine.execExportBegin p tag take s
  | .exportStop p tag => Sys2Proof.Machine.execExportStop p tag s
  | .recall p tag take ordinal => Sys2Proof.Machine.execRecall p tag take ordinal s
  | .repool p tag take ordinal pool => Sys2Proof.Machine.execRepool p tag take ordinal pool s
  | .fetchLog p tag n => Sys2Proof.Machine.execFetchLog p tag n s
  | .setClock p tag seconds => Sys2Proof.Machine.execSetClock p tag seconds s
  | .setClearance p tag station level => Sys2Proof.Machine.execSetClearance p tag station level s
  | .getClearance p tag station => Sys2Proof.Machine.execGetClearance p tag station s
  | .status p tag => Sys2Proof.Machine.execStatus p tag s
  | .listTakes p tag start => Sys2Proof.Machine.execListTakes p tag start s
  | .listCues p tag take start => Sys2Proof.Machine.execListCues p tag take start s
  | .listChunks p tag form selector start => Sys2Proof.Machine.execListChunks p tag form selector start s
  | .getLinks p tag => Sys2Proof.Machine.execGetLinks p tag s
  | .enterSetup p tag => Sys2Proof.Machine.execEnterSetup p tag s
  | .leaveSetup p tag => Sys2Proof.Machine.execLeaveSetup p tag s
  | .setFilter p tag index enabled kind first second target turnaround whole floor => Sys2Proof.Machine.execSetFilter p tag index enabled kind first second target turnaround whole floor s
  | .setDefaultAction p tag target turnaround whole floor => Sys2Proof.Machine.execSetDefaultAction p tag target turnaround whole floor s
  | .setPauseThreshold p tag threshold => Sys2Proof.Machine.execSetPauseThreshold p tag threshold s
  | .setWatermark p tag blocks => Sys2Proof.Machine.execSetWatermark p tag blocks s
  | .setPoolSplit p tag pool length window leadIn ratio => Sys2Proof.Machine.execSetPoolSplit p tag pool length window leadIn ratio s
  | .setPoolMode p tag pool discipline reoffer => Sys2Proof.Machine.execSetPoolMode p tag pool discipline reoffer s
  | .setOfferTimeout p tag seconds => Sys2Proof.Machine.execSetOfferTimeout p tag seconds s
  | .setGrace p tag seconds => Sys2Proof.Machine.execSetGrace p tag seconds s
  | .setDropTime p tag seconds => Sys2Proof.Machine.execSetDropTime p tag seconds s
  | .getFilter p tag index => Sys2Proof.Machine.execGetFilter p tag index s
  | .getIntake p tag => Sys2Proof.Machine.execGetIntake p tag s
  | .getPool p tag pool => Sys2Proof.Machine.execGetPool p tag pool s
  | .getHandoff p tag => Sys2Proof.Machine.execGetHandoff p tag s
  | .quietTimerExpiry p => Sys2Proof.Machine.execQuietTimerExpiry p s
  | .dropTimerExpiry p => Sys2Proof.Machine.execDropTimerExpiry p s
  | .sendTimerExpiry p => Sys2Proof.Machine.execSendTimerExpiry p s
  | .offerTimerExpiry p => Sys2Proof.Machine.execOfferTimerExpiry p s
  | .graceTimerExpiry take ordinal => Sys2Proof.Machine.execGraceTimerExpiry take ordinal s
  | .officeClockTick => Sys2Proof.Machine.execOfficeClockTick s
  | .playFrameDue p => Sys2Proof.Machine.execPlayFrameDue p s
  | .writeTenureComplete => Sys2Proof.Machine.execWriteTenureComplete s
  | .readTenureComplete upsets requestFirst => Sys2Proof.Machine.execReadTenureComplete upsets requestFirst s
  | .releaseStepComplete => Sys2Proof.Machine.execReleaseStepComplete s
  | .resetPinAsserted => Sys2Proof.Machine.execResetPinAsserted s

end Sys2Proof.Machine
end

