-- ==== Sys2Proof/Machine/Wire.lean ====
section
/-!
DEFINITION. Sys2Proof/Machine/Wire.lean: the frames the part sends, as bytes (Chapter 11): operand encodings,
records, reply and notice bodies, the frame check and the escaping of R166.
-/

namespace Sys2Proof.Machine

/-! ### Codes and fields -/

/-- A whole number in `w` bytes, most significant byte first (11.1). -/
def beBytes : Nat → Nat → List Byte
  | 0, _ => []
  | w + 1, n => BitVec.ofNat 8 (n / 256 ^ w) :: beBytes w n

/-- Pool code (11.3). -/
def PoolId.code : PoolId → Nat
  | .a => 1
  | .b => 2
  | .c => 3
  | .d => 4

/-- Target code: PARK is 5 (11.3). -/
def targetCode (t : Option PoolId) : Nat := (t.map PoolId.code).getD 5

/-- Pool field of a record: 0 absent (11.3). -/
def poolCode (t : Option PoolId) : Nat := (t.map PoolId.code).getD 0

/-- Role code: 0 none (11.3). -/
def roleCode : Option Role → Nat
  | none => 0
  | some .recorder => 1
  | some .typist => 2
  | some .desk => 3
  | some .reader => 4

/-- Port code: 0xFF absent (11.3). -/
def portCode : Option PortNo → Nat
  | none => 0xFF
  | some p => p.val

/-- Cue index code: 0xFFFF none (11.3). -/
def cueCode (i : Option Nat) : Nat := i.getD 0xFFFF

/-- 0 no, 1 yes. -/
def boolCode (b : Bool) : Nat := if b then 1 else 0

/-- Filter kind code (11.3). -/
def FilterKind.code : FilterKind → Nat
  | .range => 1
  | .mask => 2
  | .pair => 3

/-- Discipline code (11.3). -/
def Discipline.code : Discipline → Nat
  | .arrival => 1
  | .urgency => 2

/-- SPLIT_DEFERRED reason byte (11.5). -/
def DeferReason.code : DeferReason → Nat
  | .tableFull => 1
  | .sequenceEnd => 2

/-- Chunk state code (11.4). -/
def ChunkState.code : ChunkState → Nat
  | .parked => 1
  | .pending => 2
  | .offered => 3
  | .held => 4
  | .lapsing => 5

/-- Take state code (11.4). -/
def TakeState.code : TakeState → Nat
  | .recording => 1
  | .paused => 2
  | .readback => 3
  | .closed => 4
  | .releasing => 5

/-- Origin code (11.4). -/
def Origin.code : Origin → Nat
  | .recorder => 1
  | .auto => 2
  | .desk => 3

/-- Log record kind code (11.4). -/
def LogKind.code : LogKind → Nat
  | .finished => 1
  | .recalled => 2
  | .lapsed => 3

/-- Operating state code (11.4). -/
def OpState.code : OpState → Nat
  | .setup => 1
  | .run => 2

/-- Reason code, 1..16 (11.5). -/
def Reason.code : Reason → Nat
  | .notRunning => 1
  | .notSetup => 2
  | .wrongRole => 3
  | .wrongState => 4
  | .noSuch => 5
  | .tableFull => 6
  | .spanOpen => 7
  | .noSpan => 8
  | .notPaused => 9
  | .takeBusy => 10
  | .lost => 11
  | .holding => 12
  | .expired => 13
  | .empty => 14
  | .inUse => 15
  | .unknown => 16

/-- Detail code of a TAKE_BUSY reply, 1..6 (11.3). -/
def Unmet.code : Unmet → Nat
  | .notClosed => 1
  | .notExported => 2
  | .chunksLive => 3
  | .readersPresent => 4
  | .takesOpen => 5
  | .chunksInWork => 6

/-- A flag byte from its bits, bit 0 first (11.4). -/
def flagByte : List Bool → Nat
  | [] => 0
  | b :: bs => boolCode b + 2 * flagByte bs

/-! ### Records -/

/-- The chunk summary, 32 bytes (11.4). -/
def ChunkSummary.bytes (c : ChunkSummary) : List Byte :=
  beBytes 2 c.name.take ++ beBytes 2 c.name.ordinal ++ beBytes 3 c.ownStart ++ beBytes 3 c.ownEnd ++
  beBytes 3 c.playStart ++ beBytes 3 c.billable ++ beBytes 3 c.estimate ++ beBytes 4 c.due ++
  beBytes 4 c.key ++ beBytes 1 c.required ++ beBytes 1 (poolCode c.pool) ++ beBytes 1 c.state.code ++
  beBytes 1 c.reissues ++ beBytes 1 (flagByte [c.final, c.merged, c.noOffer])

/-- The take summary, 42 bytes (11.4). -/
def TakeSummary.bytes (t : TakeSummary) : List Byte :=
  beBytes 2 t.id ++ beBytes 4 t.matter ++ beBytes 1 (targetCode t.action.target) ++
  beBytes 3 t.action.turnaround ++
  beBytes 1 (flagByte [t.action.whole, t.exported, t.closedAt.isSome, t.offRecordOpen, t.deferred]) ++
  beBytes 1 t.action.floor ++ beBytes 1 t.state.code ++ beBytes 1 (portCode t.recPort) ++
  beBytes 2 t.station ++ beBytes 4 t.openedAt ++ beBytes 4 (t.closedAt.getD 0) ++
  beBytes 3 t.endTime ++ beBytes 2 (cueCode t.restrictOpen) ++ beBytes 3 t.cursor ++
  beBytes 2 t.nextOrdinal ++ beBytes 2 t.chunksMade ++ beBytes 2 t.chunksFinished ++
  beBytes 3 t.damagedSeen ++ beBytes 1 t.readers

/-- The cue record, 16 bytes (11.4). -/
def cueBytes (take : Nat) (c : Cue) : List Byte :=
  beBytes 2 take ++ beBytes 2 c.index ++ beBytes 3 c.time ++ beBytes 1 c.kind.number ++
  beBytes 1 c.origin.code ++ beBytes 3 (c.value.getD 0xFFFFFF) ++ beBytes 4 c.arrival

/-- The completion log record, 18 bytes (11.4). -/
def LogRec.bytes (r : LogRec) : List Byte :=
  beBytes 1 r.kind.code ++ beBytes 2 r.chunk.take ++ beBytes 2 r.chunk.ordinal ++
  beBytes 2 (r.station.getD 0) ++ beBytes 4 r.clock ++ beBytes 4 (r.heldSince.getD 0) ++
  beBytes 2 r.pages ++ beBytes 1 (flagByte [r.tooLate, r.heldSince.isSome])

/-- A reply or notice value (11.3, 11.4).  What the tables do not list is a free value (log 5). -/
def Item.bytes : Item → List Byte
  | .pool p => beBytes 1 (targetCode p)
  | .role r => beBytes 1 (roleCode r)
  | .port p => beBytes 1 p.val
  | .level n => beBytes 1 n
  | .station s => beBytes 2 (s.getD 0)
  | .takeId n => beBytes 2 n
  | .ordinal n => beBytes 2 n
  | .cueIndex i => beBytes 2 (cueCode i)
  | .time n => beBytes 3 n
  | .number n => beBytes 2 n
  | .count n => beBytes 3 n
  | .clock n => beBytes 4 n
  | .matter n => beBytes 4 n
  | .ratio n => beBytes 1 n
  | .filterKind k => beBytes 1 k.code
  | .flag b => beBytes 1 (boolCode b)
  | .discipline d => beBytes 1 d.code
  | .reoffer b => beBytes 1 (boolCode b)
  | .mask m => beBytes 4 m
  | .next n => beBytes 4 (n.getD 0xFFFFFFFF)
  | .deferReason r => beBytes 1 r.code
  | .chunk c => c.bytes
  | .take t => t.bytes
  | .cue t c => cueBytes t c
  | .logRec r => r.bytes
  | .status op ck fr live opn cf chs df arr lg low ovr =>
    beBytes 1 op.code ++ beBytes 4 ck ++ beBytes 3 fr ++ beBytes 1 live ++ beBytes 1 opn ++
    beBytes 2 cf ++ beBytes 2 chs ++ beBytes 1 df ++ beBytes 4 arr ++
    beBytes 1 lg ++ beBytes 1 (flagByte [low, ovr])
  | .unlisted u => Config.unlistedBytes u

/-- The fields a notice carries, in the order of R156. -/
def Notice.items : Notice → List Item
  | .storeLow n => [.unlisted (.blockCount n)]
  | .storeRecovered n => [.unlisted (.blockCount n)]
  | .storeEmpty t noted => [.takeId t, .time noted]
  | .splitDeferred t n r => [.takeId t, .time n, .deferReason r]
  | .logPending n => [.unlisted (.logCount n)]
  | .released t => [.takeId t]
  | .damagedBlock t a b => [.takeId t, .time a, .time b]
  | .exportEnd t e d sil => [.takeId t, .time e, .unlisted (.damagedCount d), .unlisted (.answer sil)]
  | .chunkOffer c => [.chunk c]
  | .offerWithdrawn c => [.takeId c.take, .ordinal c.ordinal]
  | .offerLapsed c => [.takeId c.take, .ordinal c.ordinal]
  | .recallRequested c => [.takeId c.take, .ordinal c.ordinal]
  | .playEnd t c => [.takeId t, .time c]
  | .playStall t c => [.takeId t, .time c]
  | .restrictedSilenced t c l => [.takeId t, .time c, .level l]
  | .audioDiscarded (some t) => [.takeId t]
  | .audioDiscarded none => [.unlisted .noTake]
  | .takeLimit t e => [.takeId t, .time e]
  | .linkWarning n => [.unlisted (.errorCount n)]

/-- Result, reason and detail bytes of a reply (11.3). -/
def Result.bytes : Result → List Byte
  | .ok => beBytes 1 0 ++ beBytes 1 0 ++ beBytes 1 0
  | .clamped => beBytes 1 1 ++ beBytes 1 0 ++ beBytes 1 0
  | .refused r d => beBytes 1 2 ++ beBytes 1 r.code ++ beBytes 1 ((d.map Unmet.code).getD 0)

/-- Frame kind code (11.2). -/
def Frame.kind : Frame → Nat
  | .idle => 0x00
  | .reply _ _ => 0x02
  | .notice _ => 0x03
  | .playSpeech _ _ _ => 0x20
  | .playSilence _ _ => 0x21
  | .exportSpeech _ _ _ => 0x30
  | .exportSilence _ _ _ => 0x31

/-- The tag: that of the command answered in a reply, 0 in every other frame (R166). -/
def Frame.tag : Frame → Byte
  | .reply t _ => t
  | .idle | .notice _ | .playSpeech _ _ _ | .playSilence _ _ | .exportSpeech _ _ _
  | .exportSilence _ _ _ => 0

/-- The body of a frame (11.2, 11.3). -/
def Frame.body : Frame → List Byte
  | .idle => []
  | .reply _ r => beBytes 1 r.code ++ r.result.bytes ++ r.items.flatMap Item.bytes
  | .notice n => beBytes 1 n.code ++ n.items.flatMap Item.bytes
  | .playSpeech t c b => beBytes 2 t ++ beBytes 3 c ++ b.toArray.toList
  | .playSilence t c => beBytes 2 t ++ beBytes 3 c ++ beBytes 1 1
  | .exportSpeech t c b => beBytes 2 t ++ beBytes 3 c ++ b.toArray.toList
  | .exportSilence t c n => beBytes 2 t ++ beBytes 3 c ++ beBytes 1 n

/-! ### The line -/

/-- A byte as it goes out after the start marker: 0x7E and 0x7D are escaped (R166). -/
def escapeByte (b : Byte) : List Byte :=
  if b = 0x7E#8 || b = 0x7D#8 then [0x7D#8, b ^^^ 0x20#8] else [b]

/-- Bytes after the start marker, escaped (R166). -/
def escape (bs : List Byte) : List Byte := bs.flatMap escapeByte

/-- Kind, tag, body length and body: what the frame check covers (11.1). -/
def covered (kind : Nat) (tag : Byte) (body : List Byte) : List Byte :=
  beBytes 1 kind ++ [tag] ++ beBytes 1 body.length ++ body

/-- A frame on the line: start marker, then the covered bytes and their check, escaped (R166). -/
def wireOf (kind : Nat) (tag : Byte) (body : List Byte) : List Byte :=
  0x7E#8 :: escape (covered kind tag body ++ bytes16 (crc (covered kind tag body)))

/-- A frame of the part on the line (R166). -/
def Frame.wire (f : Frame) : List Byte := wireOf f.kind f.tag f.body

end Sys2Proof.Machine
end

