-- ==== Sys2Proof/Machine/Receive.lean ====
section
/-!
DEFINITION. Sys2Proof/Machine/Receive.lean: how bytes on a receive line become the commands of Syntax.lean
(R145, R166, R167): unescaping, the judgement of a frame, and the operands of each command code.  The station
side's encoder stands beside it.
-/

namespace Sys2Proof.Machine

/-- Undo the escaping of the bytes after a start marker; none when a 0x7D stands before the next start marker or
at the end (R166).  The bytes of one frame hold no start marker (`heard` cuts them there). -/
def unescape : List Byte → Option (List Byte)
  | [] => some []
  | b :: bs =>
    if b = 0x7D#8 then
      match bs with
      | [] => none
      | e :: rest => if e = 0x7E#8 then none else (unescape rest).map (fun r => (e ^^^ 0x20#8) :: r)
    else if b = 0x7E#8 then none
    else (unescape bs).map (fun r => b :: r)

/-- A whole number from bytes, most significant first (11.1). -/
def beNat (bs : List Byte) : Nat := bs.foldl (fun n b => n * 256 + b.toNat) 0

/-- Operands of the given sizes from the front of a body, bytes beyond them ignored; none when the body is too
short (R167). -/
def fields : List Nat → List Byte → Option (List Nat)
  | [], _ => some []
  | w :: ws, bs =>
    if w ≤ bs.length then (fields ws (bs.drop w)).map (fun r => beNat (bs.take w) :: r) else none

/-- Operands of the given sizes as bytes. -/
def fieldBytes : List (Nat × Nat) → List Byte
  | [] => []
  | (w, n) :: r => beBytes w n ++ fieldBytes r

/-- The OPEN_TAKE of a matter code and the bytes after it, where the continue option stands in a layout that 11.3
does not give (log 6).  A body without room for the 2 bytes of a take id names none (R167). -/
def openTakeOf (p : PortNo) (tag : Byte) (matter : Nat) (rest : List Byte) : Option Instr :=
  match Config.continueOption rest with
  | none => none
  | some none => some (.openTake p tag matter)
  | some (some take) =>
    if rest.length < 2 then none else some (.openTakeContinue p tag matter take.toNat)

/-- The command of a command code and the bytes after it.  The outer none: the code is unknown; the inner
none: the body is too short for the code's operands (R167). -/
def commandOf (p : PortNo) (tag : Byte) (code : Nat) (b : List Byte) : Option (Option Instr) :=
  match code with
  | 0x01 => some (match fields [2, 1, 4] b with | some [s, r, m] => some (.attach p tag s r m) | _ => none)
  | 0x02 => some (some (.detach p tag))
  | 0x03 => some (match fields [4] b with | some [m] => some (.setMask p tag m) | _ => none)
  | 0x10 => some (match fields [4] b with | some [m] => openTakeOf p tag m (b.drop 4) | _ => none)
  | 0x11 => some (some (.pause p tag))
  | 0x12 => some (some (.resume p tag))
  | 0x13 => some (some (.closeTake p tag))
  | 0x14 => some (match fields [1, 2] b with | some [k, n] => some (.mark p tag k n) | _ => none)
  | 0x15 => some (some (.offRecordBegin p tag))
  | 0x16 => some (some (.offRecordEnd p tag))
  | 0x17 => some (match fields [1] b with | some [l] => some (.restrictBegin p tag l) | _ => none)
  | 0x18 => some (some (.restrictEnd p tag))
  | 0x19 => some (match fields [1, 3] b with | some [f, v] => some (.readbackBegin p tag f v) | _ => none)
  | 0x1A => some (some (.readbackEnd p tag))
  | 0x20 => some (some (.play p tag))
  | 0x21 => some (some (.stop p tag))
  | 0x22 => some (match fields [3] b with | some [n] => some (.stepBack p tag n) | _ => none)
  | 0x23 => some (match fields [3] b with | some [n] => some (.stepAhead p tag n) | _ => none)
  | 0x24 => some (match fields [3] b with | some [t] => some (.seek p tag t) | _ => none)
  | 0x25 => some (match fields [1, 2] b with | some [d, k] => some (.seekCue p tag d k) | _ => none)
  | 0x26 => some (match fields [3] b with | some [t] => some (.jumpTime p tag t) | _ => none)
  | 0x27 => some (match fields [2] b with | some [i] => some (.jumpCue p tag i) | _ => none)
  | 0x28 => some (some (.backtrack p tag))
  | 0x30 => some (match fields [1] b with | some [k] => some (.ready p tag k) | _ => none)
  | 0x31 => some (some (.unready p tag))
  | 0x32 => some (match fields [1] b with | some [k] => some (.peek p tag k) | _ => none)
  | 0x33 => some (some (.claim p tag))
  | 0x34 => some (match fields [2, 2] b with | some [t, o] => some (.accept p tag t o) | _ => none)
  | 0x35 => some (match fields [2, 2] b with | some [t, o] => some (.decline p tag t o) | _ => none)
  | 0x36 => some (match fields [2] b with | some [n] => some (.finish p tag n) | _ => none)
  | 0x37 => some (some (.yield p tag))
  | 0x38 => some (some (.resumeHold p tag))
  | 0x40 => some (match fields [2] b with | some [t] => some (.closeTakeDesk p tag t) | _ => none)
  | 0x41 => some (match fields [2, 3, 3, 1] b with
      | some [t, x, y, l] => some (.restrictSpan p tag t x y l)
      | _ => none)
  | 0x42 => some (match fields [2] b with | some [t] => some (.releaseTake p tag t) | _ => none)
  | 0x43 => some (match fields [2] b with | some [t] => some (.exportBegin p tag t) | _ => none)
  | 0x44 => some (some (.exportStop p tag))
  | 0x45 => some (match fields [2, 2] b with | some [t, o] => some (.recall p tag t o) | _ => none)
  | 0x46 => some (match fields [2, 2, 1] b with | some [t, o, k] => some (.repool p tag t o k) | _ => none)
  | 0x47 => some (match fields [3] b with | some [n] => some (.fetchLog p tag n) | _ => none)
  | 0x48 => some (match fields [4] b with | some [n] => some (.setClock p tag n) | _ => none)
  | 0x49 => some (match fields [2, 1] b with | some [s, l] => some (.setClearance p tag s l) | _ => none)
  | 0x4A => some (match fields [2] b with | some [s] => some (.getClearance p tag s) | _ => none)
  | 0x4B => some (some (.status p tag))
  | 0x4C => some (match fields [4] b with | some [n] => some (.listTakes p tag n) | _ => none)
  | 0x4D => some (match fields [2, 4] b with | some [t, n] => some (.listCues p tag t n) | _ => none)
  | 0x4E => some (match fields [1, 2, 4] b with
      | some [f, x, n] => some (.listChunks p tag f x n)
      | _ => none)
  | 0x4F => some (some (.getLinks p tag))
  | 0x50 => some (some (.enterSetup p tag))
  | 0x51 => some (some (.leaveSetup p tag))
  | 0x52 => some (match fields [1, 1, 1, 4, 4, 1, 3, 1, 1] b with
      | some [i, e, k, x, y, t, a, w, f] => some (.setFilter p tag i e k x y t a w f)
      | _ => none)
  | 0x53 => some (match fields [1, 3, 1, 1] b with
      | some [t, a, w, f] => some (.setDefaultAction p tag t a w f)
      | _ => none)
  | 0x54 => some (match fields [3] b with | some [n] => some (.setPauseThreshold p tag n) | _ => none)
  | 0x55 => some (match fields [3] b with | some [n] => some (.setWatermark p tag n) | _ => none)
  | 0x56 => some (match fields [1, 3, 3, 3, 1] b with
      | some [k, l, w, v, q] => some (.setPoolSplit p tag k l w v q)
      | _ => none)
  | 0x57 => some (match fields [1, 1, 1] b with
      | some [k, d, r] => some (.setPoolMode p tag k d r)
      | _ => none)
  | 0x58 => some (match fields [3] b with | some [n] => some (.setOfferTimeout p tag n) | _ => none)
  | 0x59 => some (match fields [3] b with | some [n] => some (.setGrace p tag n) | _ => none)
  | 0x5A => some (match fields [3] b with | some [n] => some (.setDropTime p tag n) | _ => none)
  | 0x5B => some (match fields [1] b with | some [i] => some (.getFilter p tag i) | _ => none)
  | 0x5C => some (some (.getIntake p tag))
  | 0x5D => some (match fields [1] b with | some [k] => some (.getPool p tag k) | _ => none)
  | 0x5E => some (some (.getHandoff p tag))
  | _ => none

/-- The command or event of a frame whose count of bytes and check are right (R145): the kind and direction
tests, and the lengths of audio and command bodies. -/
def frameOf (p : PortNo) (kind : Nat) (tag : Byte) (body : List Byte) : Instr :=
  match kind, body with
  | 0x00, [] => .idle p
  | 0x01, code :: operands =>
    match commandOf p tag code.toNat operands with
    | none => .commandUnknown p tag code.toNat
    | some none => .badFrame p
    | some (some i) => i
  | 0x10, bs => if h : bs.length = 40 then .audioSpeech p ⟨⟨bs⟩, h⟩ else .badFrame p
  | 0x11, [n] => .audioSilence p n.toNat
  | _, _ => .badFrame p

/-- What the SLI takes from the bytes between a start marker and the next start marker or line break (R145,
R166): a bad frame, or the command or frame they spell. -/
def received (p : PortNo) (raw : List Byte) : Instr :=
  match unescape raw with
  | some (kind :: tag :: length :: rest) =>
    if rest.length = length.toNat + 2 &&
        rest.drop length.toNat =
          bytes16 (crc (covered kind.toNat tag (rest.take length.toNat))) then
      frameOf p kind.toNat tag (rest.take length.toNat)
    else .badFrame p
  | _ => .badFrame p

/-- What stands on a port's receive line: a byte, or the break condition (11.6). -/
inductive LineEvent
  | byte (b : Byte)
  | lineBreak
  deriving DecidableEq, Repr

/-- The frame that ends where the next start marker or line break stands, if a start marker began one. -/
def ended (p : PortNo) (current : Option (List Byte)) : List Instr :=
  match current with
  | none => []
  | some raw => [received p raw]

/-- The commands and events of a port's receive line (R145, R147, R166): each 0x7E starts a frame, which runs to the
next 0x7E or line break and is judged there (DEDUCED, log 41).  `current` holds the bytes since the last start marker;
none stands before the first one and after a line break, where bytes start no frame. -/
def heard (p : PortNo) : Option (List Byte) → List LineEvent → List Instr
  | _, [] => []
  | current, .byte b :: line =>
    if b = 0x7E#8 then ended p current ++ heard p (some []) line
    else heard p (current.map (· ++ [b])) line
  | current, .lineBreak :: line => ended p current ++ .lineBreak p :: heard p none line

/-- The command code, tag and operand bytes of a station command, as a station encodes it (11.3, 11.5).  None
for what is no COMMAND frame, for OPEN_TAKE, whose continue option 11.3 does not lay out (log 6), and for an
unknown code. -/
def commandBytes : Instr → Option (Byte × Nat × List Byte)
  | .attach _ t s r m => some (t, 0x01, fieldBytes [(2, s), (1, r), (4, m)])
  | .detach _ t => some (t, 0x02, [])
  | .setMask _ t m => some (t, 0x03, fieldBytes [(4, m)])
  | .pause _ t => some (t, 0x11, [])
  | .resume _ t => some (t, 0x12, [])
  | .closeTake _ t => some (t, 0x13, [])
  | .mark _ t k n => some (t, 0x14, fieldBytes [(1, k), (2, n)])
  | .offRecordBegin _ t => some (t, 0x15, [])
  | .offRecordEnd _ t => some (t, 0x16, [])
  | .restrictBegin _ t l => some (t, 0x17, fieldBytes [(1, l)])
  | .restrictEnd _ t => some (t, 0x18, [])
  | .readbackBegin _ t f v => some (t, 0x19, fieldBytes [(1, f), (3, v)])
  | .readbackEnd _ t => some (t, 0x1A, [])
  | .play _ t => some (t, 0x20, [])
  | .stop _ t => some (t, 0x21, [])
  | .stepBack _ t n => some (t, 0x22, fieldBytes [(3, n)])
  | .stepAhead _ t n => some (t, 0x23, fieldBytes [(3, n)])
  | .seek _ t n => some (t, 0x24, fieldBytes [(3, n)])
  | .seekCue _ t d k => some (t, 0x25, fieldBytes [(1, d), (2, k)])
  | .jumpTime _ t n => some (t, 0x26, fieldBytes [(3, n)])
  | .jumpCue _ t i => some (t, 0x27, fieldBytes [(2, i)])
  | .backtrack _ t => some (t, 0x28, [])
  | .ready _ t k => some (t, 0x30, fieldBytes [(1, k)])
  | .unready _ t => some (t, 0x31, [])
  | .peek _ t k => some (t, 0x32, fieldBytes [(1, k)])
  | .claim _ t => some (t, 0x33, [])
  | .accept _ t x o => some (t, 0x34, fieldBytes [(2, x), (2, o)])
  | .decline _ t x o => some (t, 0x35, fieldBytes [(2, x), (2, o)])
  | .finish _ t n => some (t, 0x36, fieldBytes [(2, n)])
  | .yield _ t => some (t, 0x37, [])
  | .resumeHold _ t => some (t, 0x38, [])
  | .closeTakeDesk _ t x => some (t, 0x40, fieldBytes [(2, x)])
  | .restrictSpan _ t x a b l => some (t, 0x41, fieldBytes [(2, x), (3, a), (3, b), (1, l)])
  | .releaseTake _ t x => some (t, 0x42, fieldBytes [(2, x)])
  | .exportBegin _ t x => some (t, 0x43, fieldBytes [(2, x)])
  | .exportStop _ t => some (t, 0x44, [])
  | .recall _ t x o => some (t, 0x45, fieldBytes [(2, x), (2, o)])
  | .repool _ t x o k => some (t, 0x46, fieldBytes [(2, x), (2, o), (1, k)])
  | .fetchLog _ t n => some (t, 0x47, fieldBytes [(3, n)])
  | .setClock _ t n => some (t, 0x48, fieldBytes [(4, n)])
  | .setClearance _ t s l => some (t, 0x49, fieldBytes [(2, s), (1, l)])
  | .getClearance _ t s => some (t, 0x4A, fieldBytes [(2, s)])
  | .status _ t => some (t, 0x4B, [])
  | .listTakes _ t n => some (t, 0x4C, fieldBytes [(4, n)])
  | .listCues _ t x n => some (t, 0x4D, fieldBytes [(2, x), (4, n)])
  | .listChunks _ t f x n => some (t, 0x4E, fieldBytes [(1, f), (2, x), (4, n)])
  | .getLinks _ t => some (t, 0x4F, [])
  | .enterSetup _ t => some (t, 0x50, [])
  | .leaveSetup _ t => some (t, 0x51, [])
  | .setFilter _ t i e k x y g a w f =>
    some (t, 0x52, fieldBytes
      [(1, i), (1, e), (1, k), (4, x), (4, y), (1, g), (3, a), (1, w), (1, f)])
  | .setDefaultAction _ t g a w f => some (t, 0x53, fieldBytes [(1, g), (3, a), (1, w), (1, f)])
  | .setPauseThreshold _ t n => some (t, 0x54, fieldBytes [(3, n)])
  | .setWatermark _ t n => some (t, 0x55, fieldBytes [(3, n)])
  | .setPoolSplit _ t k l w v q =>
    some (t, 0x56, fieldBytes [(1, k), (3, l), (3, w), (3, v), (1, q)])
  | .setPoolMode _ t k d r => some (t, 0x57, fieldBytes [(1, k), (1, d), (1, r)])
  | .setOfferTimeout _ t n => some (t, 0x58, fieldBytes [(3, n)])
  | .setGrace _ t n => some (t, 0x59, fieldBytes [(3, n)])
  | .setDropTime _ t n => some (t, 0x5A, fieldBytes [(3, n)])
  | .getFilter _ t i => some (t, 0x5B, fieldBytes [(1, i)])
  | .getIntake _ t => some (t, 0x5C, [])
  | .getPool _ t k => some (t, 0x5D, fieldBytes [(1, k)])
  | .getHandoff _ t => some (t, 0x5E, [])
  | .powerOnReset | .hardReset | .carrierArrives _ | .carrierLost _ | .lineBreak _ | .badFrame _
  | .frameIgnoredFaulted _ | .idle _ | .audioSpeech _ _ | .audioSilence _ _ | .commandUnknown _ _ _
  | .openTake _ _ _ | .openTakeContinue _ _ _ _ | .quietTimerExpiry _ | .dropTimerExpiry _
  | .sendTimerExpiry _ | .offerTimerExpiry _ | .graceTimerExpiry _ _ | .officeClockTick
  | .playFrameDue _ | .writeTenureComplete | .readTenureComplete _ _ | .releaseStepComplete
  | .resetPinAsserted => none

/-- The port a station command arrives on. -/
def Instr.portOf : Instr → Option PortNo
  | .carrierArrives p | .carrierLost p | .lineBreak p | .badFrame p | .frameIgnoredFaulted p | .idle p
  | .audioSpeech p _ | .audioSilence p _ | .commandUnknown p _ _ | .attach p _ _ _ _ | .detach p _
  | .setMask p _ _ | .openTake p _ _ | .openTakeContinue p _ _ _ | .pause p _ | .resume p _
  | .closeTake p _ | .mark p _ _ _ | .offRecordBegin p _ | .offRecordEnd p _ | .restrictBegin p _ _
  | .restrictEnd p _ | .readbackBegin p _ _ _ | .readbackEnd p _ | .play p _ | .stop p _
  | .stepBack p _ _ | .stepAhead p _ _ | .seek p _ _ | .seekCue p _ _ _ | .jumpTime p _ _
  | .jumpCue p _ _ | .backtrack p _ | .ready p _ _ | .unready p _ | .peek p _ _ | .claim p _
  | .accept p _ _ _ | .decline p _ _ _ | .finish p _ _ | .yield p _ | .resumeHold p _
  | .closeTakeDesk p _ _ | .restrictSpan p _ _ _ _ _ | .releaseTake p _ _ | .exportBegin p _ _
  | .exportStop p _ | .recall p _ _ _ | .repool p _ _ _ _ | .fetchLog p _ _ | .setClock p _ _
  | .setClearance p _ _ _ | .getClearance p _ _ | .status p _ | .listTakes p _ _ | .listCues p _ _ _
  | .listChunks p _ _ _ _ | .getLinks p _ | .enterSetup p _ | .leaveSetup p _
  | .setFilter p _ _ _ _ _ _ _ _ _ _ | .setDefaultAction p _ _ _ _ _ | .setPauseThreshold p _ _
  | .setWatermark p _ _ | .setPoolSplit p _ _ _ _ _ _ | .setPoolMode p _ _ _ _
  | .setOfferTimeout p _ _ | .setGrace p _ _ | .setDropTime p _ _ | .getFilter p _ _ | .getIntake p _
  | .getPool p _ _ | .getHandoff p _ | .quietTimerExpiry p | .dropTimerExpiry p | .sendTimerExpiry p
  | .offerTimerExpiry p | .playFrameDue p => some p
  | .powerOnReset | .hardReset | .graceTimerExpiry _ _ | .officeClockTick | .writeTenureComplete
  | .readTenureComplete _ _ | .releaseStepComplete | .resetPinAsserted => none

end Sys2Proof.Machine
end

