-- ==== Sys2Proof/WellFormed.lean ====
section
/-!
DEFINITION. Sys2Proof/WellFormed.lean: which commands can be sent.
Each operand fits the size the encoding table of 11.3 gives it, so a well-formed command is one a station can
spell in bytes.  Codes outside their set and values outside their range are well formed: the owner answers
them (R28, R167).
-/

namespace Sys2Proof

/-- The command codes of 11.5. -/
def knownCode (code : Nat) : Bool :=
  (0x01 ≤ code && code ≤ 0x03) || (0x10 ≤ code && code ≤ 0x1A) || (0x20 ≤ code && code ≤ 0x28) ||
  (0x30 ≤ code && code ≤ 0x38) || (0x40 ≤ code && code ≤ 0x4F) || (0x50 ≤ code && code ≤ 0x5E)

/-- A whole number fits a field of `w` bytes (11.1). -/
def fits (w n : Nat) : Bool := n < 256 ^ w

/-- The operands of a command fit their fields (11.2, 11.3). -/
def Instr.wellFormed : Instr → Bool
  | .powerOnReset | .hardReset | .carrierArrives _ | .carrierLost _ | .lineBreak _ | .badFrame _
  | .frameIgnoredFaulted _ | .idle _ | .audioSpeech _ _ => true
  | .audioSilence _ n => fits 1 n
  | .commandUnknown _ _ code => fits 1 code && !knownCode code
  | .attach _ _ station role mask => fits 2 station && fits 1 role && fits 4 mask
  | .detach _ _ => true
  | .setMask _ _ mask => fits 4 mask
  | .openTake _ _ matter => fits 4 matter
  | .openTakeContinue _ _ matter take => fits 4 matter && fits 2 take
  | .pause _ _ | .resume _ _ | .closeTake _ _ => true
  | .mark _ _ kind number => fits 1 kind && fits 2 number
  | .offRecordBegin _ _ | .offRecordEnd _ _ => true
  | .restrictBegin _ _ level => fits 1 level
  | .restrictEnd _ _ => true
  | .readbackBegin _ _ form value => fits 1 form && fits 3 value
  | .readbackEnd _ _ | .play _ _ | .stop _ _ => true
  | .stepBack _ _ n | .stepAhead _ _ n | .seek _ _ n | .jumpTime _ _ n => fits 3 n
  | .seekCue _ _ direction kinds => fits 1 direction && fits 2 kinds
  | .jumpCue _ _ cue => fits 2 cue
  | .backtrack _ _ => true
  | .ready _ _ pool | .peek _ _ pool => fits 1 pool
  | .unready _ _ | .claim _ _ => true
  | .accept _ _ take ordinal | .decline _ _ take ordinal => fits 2 take && fits 2 ordinal
  | .finish _ _ pages => fits 2 pages
  | .yield _ _ | .resumeHold _ _ => true
  | .closeTakeDesk _ _ take | .releaseTake _ _ take | .exportBegin _ _ take => fits 2 take
  | .restrictSpan _ _ take begins ends level =>
    fits 2 take && fits 3 begins && fits 3 ends && fits 1 level
  | .exportStop _ _ => true
  | .recall _ _ take ordinal => fits 2 take && fits 2 ordinal
  | .repool _ _ take ordinal pool => fits 2 take && fits 2 ordinal && fits 1 pool
  | .fetchLog _ _ n => fits 3 n
  | .setClock _ _ seconds => fits 4 seconds
  | .setClearance _ _ station level => fits 2 station && fits 1 level
  | .getClearance _ _ station => fits 2 station
  | .status _ _ => true
  | .listTakes _ _ start => fits 4 start
  | .listCues _ _ take start => fits 2 take && fits 4 start
  | .listChunks _ _ form selector start => fits 1 form && fits 2 selector && fits 4 start
  | .getLinks _ _ | .enterSetup _ _ | .leaveSetup _ _ => true
  | .setFilter _ _ index enabled kind first second target turnaround whole floor =>
    fits 1 index && fits 1 enabled && fits 1 kind && fits 4 first && fits 4 second &&
      fits 1 target && fits 3 turnaround && fits 1 whole && fits 1 floor
  | .setDefaultAction _ _ target turnaround whole floor =>
    fits 1 target && fits 3 turnaround && fits 1 whole && fits 1 floor
  | .setPauseThreshold _ _ n | .setWatermark _ _ n | .setOfferTimeout _ _ n | .setGrace _ _ n
  | .setDropTime _ _ n => fits 3 n
  | .setPoolSplit _ _ pool length window leadIn ratio =>
    fits 1 pool && fits 3 length && fits 3 window && fits 3 leadIn && fits 1 ratio
  | .setPoolMode _ _ pool discipline reoffer => fits 1 pool && fits 1 discipline && fits 1 reoffer
  | .getFilter _ _ index => fits 1 index
  | .getIntake _ _ | .getHandoff _ _ => true
  | .getPool _ _ pool => fits 1 pool
  | .quietTimerExpiry _ | .dropTimerExpiry _ | .sendTimerExpiry _ | .offerTimerExpiry _ => true
  | .graceTimerExpiry take ordinal => fits 2 take && fits 2 ordinal
  | .officeClockTick | .playFrameDue _ | .writeTenureComplete => true
  | .readTenureComplete upsets _ => upsets.all (fun u => u.offset < 4096)
  | .releaseStepComplete | .resetPinAsserted => true

end Sys2Proof
end

