-- ==== Sys2Proof/Safety.lean ====
section
/-!
DEFINITION. Sys2Proof/Safety.lean: what a good state and a good step are, in the words the claims use.
Nothing here takes part in a step.
-/

namespace Sys2Proof.Machine

/-! ### Who may speak -/

/-- A command of role `r` on port `p` reaches its owner: the part is not held in reset, and the port is
attached in that role (R155, R165). -/
def State.hears (s : State) (p : PortNo) (r : Role) : Prop :=
  s.resetHeld = false ∧ (s.link p).isAttached = true ∧ (s.link p).role = some r

/-- The command code and tag of a command, as its reply names them. -/
def cmd (p : PortNo) (tag : Byte) (code : Nat) : Cmd := { port := p, tag := tag, code := code }

/-! ### What goes out -/

/-- A frame handed to a port's line: sent where the port takes frames, on a DOWN or FAULTED port nothing
(R144, R147). -/
def State.sentTo (s : State) (p : PortNo) (f : Frame) : List (PortNo × Frame) :=
  if (s.link p).takesFrames then [(p, f)] else []

/-- The reply to a command. -/
def State.replyTo (s : State) (c : Cmd) (r : Result) (items : List Item) : List (PortNo × Frame) :=
  s.sentTo c.port (.reply c.tag { code := c.code, result := r, items := items })

/-- A notice for one port: the port must be attached and its mask admit it (R156). -/
def State.noticeTo (s : State) (p : PortNo) (n : Notice) : List (PortNo × Frame) :=
  if (s.link p).isAttached && !(s.link p).masks n then [(p, .notice n)] else []

/-- A notice for each of a list of ports. -/
def State.noticesTo (s : State) (ps : List PortNo) (n : Notice) : List (PortNo × Frame) :=
  ps.flatMap (fun p => s.noticeTo p n)

/-- A notice for every attached desk. -/
def State.deskNotices (s : State) (n : Notice) : List (PortNo × Frame) :=
  s.noticesTo (s.portsOf [.desk]) n

/-! ### The well-kept state -/

/-- What 9.1, R144, R146, R150 and R151 say of a port record: an unattached port has no role, station,
clearance or mask; each timer runs in its states; the latch marks a count of 255 and the warning a count of
96 or more. -/
structure Link.lawful (l : Link) : Prop where
  count : l.errorCount ≤ 255
  clearance : l.clearance ≤ 3
  bare : l.isAttached = false → l.role = none ∧ l.station = none ∧ l.clearance = 0 ∧ l.mask = 0
  named : l.isAttached = true → l.role.isSome = true ∧ l.station.isSome = true
  quiet : l.quietTimer = true ↔ l.state = .attached
  drop : l.dropTimer.isSome = true ↔ l.state = .quiet
  send : l.sendTimer = l.takesFrames
  warned : l.warning = true ↔ 96 ≤ l.errorCount
  latched : l.faultLatch = true ↔ l.errorCount = 255
  faulted : l.faultLatch = true ↔ l.state = .faulted ∨ (l.state = .down ∧ l.errorCount = 255)

/-- The sixteen port records: each lawful, no station id attached twice (R148), and each attached station at
its level of the clearance table (R148, R162). -/
structure State.linksLawful (s : State) : Prop where
  each : ∀ p, (s.link p).lawful
  once : ∀ p q, (s.link p).isAttached = true → (s.link q).isAttached = true →
    (s.link p).station = (s.link q).station → p = q
  level : ∀ p n, (s.link p).isAttached = true → (s.link p).station = some n →
    (s.link p).clearance = s.levelOfStation n

/-- The fields of an action within their ranges (2.2). -/
def Action.inRange (a : Action) : Prop :=
  600 ≤ a.turnaround ∧ a.turnaround ≤ 2592000 ∧ a.floor ≤ 3

/-- A pool's parameters within their ranges (4.1). -/
def Pool.inRange (q : Pool) : Prop :=
  6000 ≤ q.length ∧ q.length ≤ 180000 ∧ q.length % 2 = 0 ∧ q.window ≤ q.length / 2 ∧
  q.window % 2 = 0 ∧ q.leadIn ≤ min 3000 (q.length / 4) ∧ q.leadIn % 2 = 0 ∧
  4 ≤ q.ratio ∧ q.ratio ≤ 64

/-- Every setting within the range of the settings table (R157). -/
structure State.settingsInRange (s : State) : Prop where
  filter : ∀ i, ∀ h : i < 32, (s.filter[i]).action.inRange
  default : s.defaultAction.inRange
  pause : 40 ≤ s.pauseThreshold ∧ s.pauseThreshold ≤ 1000
  watermark : s.watermark ≤ 65535
  pools : ∀ k, (s.pool k).inRange
  offer : 5 ≤ s.offerTimeout ∧ s.offerTimeout ≤ 255
  grace : 60 ≤ s.grace ∧ s.grace ≤ 7200
  drop : 10 ≤ s.dropTime ∧ s.dropTime ≤ 600

/-- The sparse tables, the dictation store and its directory among them, stand in their one canonical form. -/
structure State.tablesWf (s : State) : Prop where
  directory : s.directory.wf
  store : s.store.wf
  takes : s.takes.wf
  clearances : s.clearances.wf

/-- The sizes of section 1 and the tops of the counts: 64 take records, 512 chunk records, 64 log records, 32
clearance entries of levels 1 to 3, position stacks of 8 (R73, R110, R118, R160, R161). -/
structure State.sizesKept (s : State) : Prop where
  slots : ∀ e ∈ s.takes, e.1 < Config.takeSlots
  chunks : s.chunks.length ≤ Config.chunkRecords
  log : s.log.length ≤ Config.logRecords
  entries : s.clearances.length ≤ Config.clearanceEntries
  levels : ∀ e ∈ s.clearances, 1 ≤ e.2 ∧ e.2 ≤ 3
  clock : s.clock ≤ Config.top32
  cues : s.cueArrival ≤ Config.top32
  arrivals : s.arrivalSeq ≤ Config.top32
  positions : ∀ p c, s.ctx p = some c → c.stack.length ≤ Config.stackDepth

/-- A well-kept state: the tables canonical, the sizes kept, the settings in range, the port records lawful,
and only commands a station can spell waiting. -/
structure State.wellKept (s : State) : Prop where
  tables : s.tablesWf
  sizes : s.sizesKept
  settings : s.settingsInRange
  links : s.linksLawful
  waiting : ∀ i ∈ s.pending, i.wellFormed = true

/-! ### The blocks of the store -/

/-- Blocks on the chains of all takes (R44). -/
def State.chained (s : State) : Nat := (s.takes.map (fun e => e.2.chain.length)).sum

/-- The ids of the takes (R2). -/
def State.takeIds (s : State) : List Nat := s.takes.map (fun e => e.2.id)

/-- The store's law (R44), with what R1 and R2 keep of the take table: distinct slots below 64, distinct ids
of 1 to 65,535, and the counter in that range. -/
structure State.blocksKept (s : State) : Prop where
  all : s.free.count + s.chained = Config.blocks
  slots : s.takes.wf ∧ ∀ e ∈ s.takes, e.1 < Config.takeSlots
  ids : s.takeIds.Nodup
  range : ∀ n ∈ s.takeIds, 1 ≤ n ∧ n ≤ 65535
  counter : 1 ≤ s.takeIdCounter ∧ s.takeIdCounter ≤ 65535

/-! ### Restricted speech -/

/-- The take and time of a frame that carries speech. -/
def Frame.speech? : Frame → Option (Nat × Nat)
  | .playSpeech take time _ => some (take, time)
  | .exportSpeech take time _ => some (take, time)
  | .idle | .reply _ _ | .notice _ | .playSilence _ _ | .exportSilence _ _ _ => none

/-- Speech at a time of a take may leave on a port: the port is cleared for its level, or reads back that
take (R123). -/
def State.mayHear (s : State) (p : PortNo) (take time : Nat) : Prop :=
  s.levelOf take time ≤ (s.link p).clearance ∨
    ∃ c, s.ctx p = some c ∧ c.kind = .reader ∧ c.take = take

/-! ### What a step leaves alone -/

/-- A part of the state, or a law of one.  A frame lists the parts that may change (`Touches`): the four laws of
size, the two canonical forms and the law of position stacks hold on wherever they are not listed, `takeKeys`,
`chains` and `cues` are what of the take table a change of `takes` alone leaves, and `grows` and `speech` say
that frames are only added, none of them with speech. -/
inductive Part
  | pending | resetHeld | opState | clock | clearances | link | intake | handoff | ctx | damage
  | takes | takeKeys | chains | cues | takeIdCounter | cueArrival | cueTop | filter | defaultAction
  | pauseThreshold | directory | directoryForm | store | storeForm | free | arbiter | lowFlag | watermark
  | deferral | arrivalSeq | arrivalTop | chunks | chunkSize | pools | parameters | offerTimeout | grace
  | log | logSize | overrun | dropTime | out | grows | speech | positions
  deriving DecidableEq, Repr

/-- The keys of the take table: slots and ids. -/
def State.takeKeys (s : State) : List (Nat × Nat) := s.takes.map (fun e => (e.1, e.2.id))

/-- The chains of the take table. -/
def State.chains (s : State) : List (Nat × List (Nat × Nat)) := s.takes.map (fun e => (e.2.id, e.2.chain))

/-- The cue lists and ends of the take table. -/
def State.cueLists (s : State) : List (Nat × List Cue × Nat) :=
  s.takes.map (fun e => (e.2.id, e.2.cues, e.2.endTime))

/-- A pool's record but its ready list. -/
def Pool.parameters (q : Pool) : Pool := { q with ready := [] }

/-- A part is as it was, or its law is kept. -/
def Part.same (s t : State) : Part → Prop
  | .pending => t.pending = s.pending
  | .resetHeld => t.resetHeld = s.resetHeld
  | .opState => t.opState = s.opState
  | .clock => t.clock = s.clock
  | .clearances => t.clearances = s.clearances
  | .link => ∀ p, t.link p = s.link p
  | .intake => ∀ p, t.intake p = s.intake p
  | .handoff => ∀ p, t.handoff p = s.handoff p
  | .ctx => ∀ p, t.ctx p = s.ctx p
  | .damage => ∀ p, (t.port p).lastDamage = (s.port p).lastDamage
  | .takes => t.takes = s.takes
  | .takeKeys => t.takeKeys = s.takeKeys
  | .chains => t.chains = s.chains
  | .cues => t.cueLists = s.cueLists
  | .takeIdCounter => t.takeIdCounter = s.takeIdCounter
  | .cueArrival => t.cueArrival = s.cueArrival
  | .cueTop => s.cueArrival ≤ Config.top32 → t.cueArrival ≤ Config.top32
  | .filter => t.filter = s.filter
  | .defaultAction => t.defaultAction = s.defaultAction
  | .pauseThreshold => t.pauseThreshold = s.pauseThreshold
  | .directory => t.directory = s.directory
  | .directoryForm => s.directory.wf → t.directory.wf
  | .store => t.store = s.store
  | .storeForm => s.store.wf → t.store.wf
  | .free => t.free = s.free
  | .arbiter => t.arbiter = s.arbiter
  | .lowFlag => t.lowFlag = s.lowFlag
  | .watermark => t.watermark = s.watermark
  | .deferral => t.deferral = s.deferral
  | .arrivalSeq => t.arrivalSeq = s.arrivalSeq
  | .arrivalTop => s.arrivalSeq ≤ Config.top32 → t.arrivalSeq ≤ Config.top32
  | .chunks => t.chunks = s.chunks
  | .chunkSize => s.chunks.length ≤ Config.chunkRecords → t.chunks.length ≤ Config.chunkRecords
  | .pools => t.pools = s.pools
  | .parameters => ∀ k, (t.pool k).parameters = (s.pool k).parameters
  | .offerTimeout => t.offerTimeout = s.offerTimeout
  | .grace => t.grace = s.grace
  | .log => t.log = s.log
  | .logSize => s.log.length ≤ Config.logRecords → t.log.length ≤ Config.logRecords
  | .overrun => t.overrun = s.overrun
  | .dropTime => t.dropTime = s.dropTime
  | .out => t.out = s.out
  | .grows => ∃ l, t.out = s.out ++ l
  | .speech => ∃ l, t.out = s.out ++ l ∧ ∀ e ∈ l, e.2.speech? = none
  | .positions => ∀ p c, t.ctx p = some c → c.stack = [] ∨ ∃ d, s.ctx p = some d ∧ c.stack = d.stack

/-- Every part outside `ps` is as it was, and every law outside `ps` is kept. -/
def Touches (ps : List Part) (s t : State) : Prop := ∀ x, ps.contains x = false → x.same s t

/-- A take after cut tests, which move only its split state (4.2): `u` with that of `t`. -/
def Take.apartFromCuts (u t : Take) : Take :=
  { u with cursor := t.cursor, nextOrdinal := t.nextOrdinal, deferred := t.deferred,
           chunksMade := t.chunksMade }

/-- The cue list of a take after a cue is placed on it (R11): the entry takes the lowest free index and the
arrival counter's value. -/
def State.withCue (s : State) (time : Nat) (kind : CueKind) (value : Option Nat) (origin : Origin)
    (cues : List Cue) : List Cue :=
  match s.lowestCue with
  | some i => insertCue { index := i, time := time, kind := kind, arrival := s.cueArrival,
                          value := value, origin := origin } cues
  | none => cues

/-- The same after a cue that is placed only when the pool admits it (R13, R14). -/
def State.withCueIf (s : State) (admitted : Bool) (time : Nat) (kind : CueKind) (value : Option Nat)
    (origin : Origin) (cues : List Cue) : List Cue :=
  if admitted then s.withCue time kind value origin cues else cues

/-- The state once the gap tracked on a port has ended at take time `stop`: the GAP cue stands at the noted time,
with the time lost as its value (R37). -/
def State.gapPlaced (s : State) (p : PortNo) (take stop : Nat) : State :=
  match (s.intake p).gap with
  | none => s
  | some noted => s.placeClosing take noted .gap (some (stop - noted)) .auto

/-- The state once the closing cues of a take stand, in the order of R6: the gap of its port, the ends of the spans
that are open, each naming its begin, and TAKE_LIMIT for a close at the limit. -/
def State.closingCues (s : State) (t : Take) (limit : Bool) : State :=
  let s := match t.recPort with
    | none => s
    | some p => s.gapPlaced p t.id t.endTime
  let s := if t.offRecordOpen then s.placeClosing t.id t.endTime .offRecordEnd t.openOffRecord .auto else s
  let s := match t.restrictOpen with
    | none => s
    | some i => s.placeClosing t.id t.endTime .restrictEnd (some i) .auto
  if limit then s.placeClosing t.id t.endTime .takeLimit none .auto else s

/-- What a cut test reads beside the take stands as in `s`: the chunk table, the deferral list, the arrival sequence,
the pools and the clock (R60, R61, R64). -/
def State.readyToCut (s w : State) : Prop :=
  w.chunks = s.chunks ∧ w.deferral = s.deferral ∧ w.arrivalSeq = s.arrivalSeq ∧ w.pools = s.pools ∧
  w.clock = s.clock

/-- The completion log after a record: kept while it holds fewer than 64, and dropped otherwise (R110). -/
def State.logged (s : State) (r : LogRec) : List LogRec := if s.log.length < 64 then s.log ++ [r] else s.log

/-- What the loss of an attached link leaves of what its role carried (R154).  A take is PAUSED and orphaned, after
LINK_QUIET where it was RECORDING (R9) and after READBACK_END where it was read back (R141).  A hold lapses at its
cursor with the grace timer running (R102), or is parked and logged with recall pending (R108). -/
def State.lossLeaves (s v : State) (p : PortNo) : Prop :=
  let l := s.link p
  l.isAttached = true → s.takeIds.Nodup →
  (∀ t, l.role = some .recorder → s.linkTake p = some t → t.state ≠ .readback →
    let h := s.gapPlaced p t.id t.endTime
    v.take? t.id = some { t with
      state := .paused, recPort := none
      cues := if t.state = .recording then
          h.withCueIf h.admitsClosing t.endTime .linkQuiet none .auto (h.cuesOf t.id)
        else t.cues }) ∧
  (∀ t x, l.role = some .reader → s.linkTake p = some t → s.ctx p = some x → x.take = t.id →
    v.ctx p = none ∧ (v.intake p).discard = false ∧
    v.take? t.id = some { t with
      state := .paused, recPort := none, readers := t.readers - 1
      cues := s.withCueIf s.admitsClosing t.endTime .readbackEnd none .auto t.cues }) ∧
  ∀ c x t, l.role = some .typist → s.heldBy p = some c → s.chunk? c.name = some c → s.ctx p = some x →
    s.take? x.take = some t → (s.handoff p).offer.map (·.chunk) ≠ some c.name →
    v.ctx p = none ∧ v.take? x.take = some { t with readers := t.readers - 1 } ∧
    (∀ k, p ∉ (v.pool k).ready) ∧ v.handoff p = { offer := none, lapsed := none, reservation := none } ∧
    (c.recallPending = false →
      v.chunk? c.name = some { c with
        state := .lapsing, savedCursor := some x.cursor, holderPort := none, graceTimer := some s.grace } ∧
      v.log = s.log) ∧
    (c.recallPending = true →
      v.chunk? c.name = some { c with
        state := .parked, pool := none, offeree := none, holderStation := none, holderPort := none
        heldSince := none, savedCursor := none, graceTimer := none, recallPending := false } ∧
      v.log = s.logged { kind := .recalled, chunk := c.name, station := c.holderStation, clock := s.clock
                         heldSince := c.heldSince, pages := 0, tooLate := false })

/-- A frame of an export. -/
def Frame.isExport : Frame → Bool
  | .exportSpeech _ _ _ | .exportSilence _ _ _ => true
  | .idle | .reply _ _ | .notice _ | .playSpeech _ _ _ | .playSilence _ _ => false

/-- The frames of an export from one take time to another within one read result, whose records lie from `recStart`
and whose frames end at `limit` (R127): the speech record at the cursor, silenced where it lies above the desk, and
otherwise the longest silence there, up to 250 frame-times. -/
inductive ExportRun (recs : List Rec) (recStart take limit : Nat) (above : Nat → Prop) :
    Nat → Nat → List Frame → Prop
  | done (c : Nat) : ExportRun recs recStart take limit above c c []
  | speech (c d : Nat) (b : Coded) (fs : List Frame) :
      speechAt recs recStart c = some b → ¬ above c →
      ExportRun recs recStart take limit above (c + 2) d fs →
      ExportRun recs recStart take limit above c d (.exportSpeech take c b :: fs)
  | silenced (c d : Nat) (b : Coded) (fs : List Frame) :
      speechAt recs recStart c = some b → above c →
      ExportRun recs recStart take limit above (c + 2) d fs →
      ExportRun recs recStart take limit above c d (.exportSilence take c 1 :: fs)
  | silence (c d n : Nat) (fs : List Frame) :
      1 ≤ n → n ≤ 250 → c + 2 * n ≤ limit → (∀ i < n, speechAt recs recStart (c + 2 * i) = none) →
      (n = 250 ∨ c + 2 * n = limit ∨ (speechAt recs recStart (c + 2 * n)).isSome = true) →
      ExportRun recs recStart take limit above (c + 2 * n) d fs →
      ExportRun recs recStart take limit above c d (.exportSilence take c n :: fs)

/-- A player: a port in role TYPIST or READER, whose context is `x` (R115). -/
def State.plays (s : State) (p : PortNo) (x : Ctx) : Prop :=
  (s.hears p .typist ∨ s.hears p .reader) ∧ s.ctx p = some x

/-- What an accepted move leaves in the context of a player (R120): the new cursor and stack, an empty read-ahead
with the stretch ended, and, where it was moving, a fresh start at the new cursor or a stop at the end bound. -/
def Ctx.moved (x : Ctx) (target : Nat) (stack : List Nat) : Ctx :=
  { x with
    cursor := target, stack := stack, readAhead := [], stretch := false
    outstanding := x.mode ≠ .stopped && target < x.endBound
    mode := if x.mode ≠ .stopped && target < x.endBound then .playing else .stopped
    pacing := if x.mode = .stopped then x.pacing else .onData }

/-- What an accepted move of a player leaves (R115, R120): the moved context, the reply with cursor and mode, a
PLAY_END behind it where the move stopped the play at its end bound, and nothing else but the arbiter. -/
def State.movesTo (s v : State) (p : PortNo) (tag : Byte) (code : Nat) (x : Ctx) (target : Nat)
    (stack : List Nat) (changed : Bool) (items : List Item) : Prop :=
  let y := x.moved target stack
  v.ctx p = some y ∧ (∀ q, q ≠ p → v.ctx q = s.ctx q) ∧
  v.out = (s.goodFrame p).out ++
    (p, .reply tag { code := code, result := if changed then .clamped else .ok,
                     items := items ++ [.time target, .unlisted (.mode y.mode)] }) ::
    (if x.mode ≠ .stopped ∧ x.endBound ≤ target then
      (s.goodFrame p).noticeTo p (.playEnd x.take target) else []) ∧
  Touches [.link, .ctx, .positions, .arbiter, .out] s v ∧
  (∀ q, v.link q = (s.goodFrame p).link q)

/-- An audio frame of a port and the record it becomes: speech, or silence of a count of 1 to 250 (R31, R33). -/
inductive AudioFrame (p : PortNo) : Instr → Rec → Prop
  | speech (coded : Coded) : AudioFrame p (.audioSpeech p coded) (.speech coded)
  | silence (n : Nat) (h : n ≠ 0) : AudioFrame p (.audioSilence p n) (.silence (min n 250))

/-- A chunk as it stands when no offer pass has picked it: the pass moves only its state and offeree (R84). -/
def Chunk.unpicked (c : Chunk) : Chunk :=
  if c.state = .offered then { c with state := .pending, offeree := none } else c

end Sys2Proof.Machine
end

