-- ==== Sys2Proof/Laws/State.lean ====
section
/-!
SUPPORT. Sys2Proof/Laws/State.lean: what each update of State leaves alone, field by field, and what it puts where.
-/

namespace Sys2Proof.Machine

set_option Elab.async false

/-! ### Fields an update leaves alone -/
@[simp] theorem State.setPort_pending (s : State) (p : PortNo) (q : Port) : (s.setPort p q).pending = s.pending := rfl
@[simp] theorem State.setPort_resetHeld (s : State) (p : PortNo) (q : Port) : (s.setPort p q).resetHeld = s.resetHeld := rfl
@[simp] theorem State.setPort_opState (s : State) (p : PortNo) (q : Port) : (s.setPort p q).opState = s.opState := rfl
@[simp] theorem State.setPort_clock (s : State) (p : PortNo) (q : Port) : (s.setPort p q).clock = s.clock := rfl
@[simp] theorem State.setPort_clearances (s : State) (p : PortNo) (q : Port) : (s.setPort p q).clearances = s.clearances := rfl
@[simp] theorem State.setPort_takes (s : State) (p : PortNo) (q : Port) : (s.setPort p q).takes = s.takes := rfl
@[simp] theorem State.setPort_takeIdCounter (s : State) (p : PortNo) (q : Port) : (s.setPort p q).takeIdCounter = s.takeIdCounter := rfl
@[simp] theorem State.setPort_cueArrival (s : State) (p : PortNo) (q : Port) : (s.setPort p q).cueArrival = s.cueArrival := rfl
@[simp] theorem State.setPort_filter (s : State) (p : PortNo) (q : Port) : (s.setPort p q).filter = s.filter := rfl
@[simp] theorem State.setPort_defaultAction (s : State) (p : PortNo) (q : Port) : (s.setPort p q).defaultAction = s.defaultAction := rfl
@[simp] theorem State.setPort_pauseThreshold (s : State) (p : PortNo) (q : Port) : (s.setPort p q).pauseThreshold = s.pauseThreshold := rfl
@[simp] theorem State.setPort_directory (s : State) (p : PortNo) (q : Port) : (s.setPort p q).directory = s.directory := rfl
@[simp] theorem State.setPort_store (s : State) (p : PortNo) (q : Port) : (s.setPort p q).store = s.store := rfl
@[simp] theorem State.setPort_free (s : State) (p : PortNo) (q : Port) : (s.setPort p q).free = s.free := rfl
@[simp] theorem State.setPort_arbiter (s : State) (p : PortNo) (q : Port) : (s.setPort p q).arbiter = s.arbiter := rfl
@[simp] theorem State.setPort_lowFlag (s : State) (p : PortNo) (q : Port) : (s.setPort p q).lowFlag = s.lowFlag := rfl
@[simp] theorem State.setPort_watermark (s : State) (p : PortNo) (q : Port) : (s.setPort p q).watermark = s.watermark := rfl
@[simp] theorem State.setPort_deferral (s : State) (p : PortNo) (q : Port) : (s.setPort p q).deferral = s.deferral := rfl
@[simp] theorem State.setPort_arrivalSeq (s : State) (p : PortNo) (q : Port) : (s.setPort p q).arrivalSeq = s.arrivalSeq := rfl
@[simp] theorem State.setPort_chunks (s : State) (p : PortNo) (q : Port) : (s.setPort p q).chunks = s.chunks := rfl
@[simp] theorem State.setPort_pools (s : State) (p : PortNo) (q : Port) : (s.setPort p q).pools = s.pools := rfl
@[simp] theorem State.setPort_offerTimeout (s : State) (p : PortNo) (q : Port) : (s.setPort p q).offerTimeout = s.offerTimeout := rfl
@[simp] theorem State.setPort_grace (s : State) (p : PortNo) (q : Port) : (s.setPort p q).grace = s.grace := rfl
@[simp] theorem State.setPort_log (s : State) (p : PortNo) (q : Port) : (s.setPort p q).log = s.log := rfl
@[simp] theorem State.setPort_overrun (s : State) (p : PortNo) (q : Port) : (s.setPort p q).overrun = s.overrun := rfl
@[simp] theorem State.setPort_dropTime (s : State) (p : PortNo) (q : Port) : (s.setPort p q).dropTime = s.dropTime := rfl
@[simp] theorem State.setPort_out (s : State) (p : PortNo) (q : Port) : (s.setPort p q).out = s.out := rfl
@[simp] theorem State.setLink_pending (s : State) (p : PortNo) (l : Link) : (s.setLink p l).pending = s.pending := rfl
@[simp] theorem State.setLink_resetHeld (s : State) (p : PortNo) (l : Link) : (s.setLink p l).resetHeld = s.resetHeld := rfl
@[simp] theorem State.setLink_opState (s : State) (p : PortNo) (l : Link) : (s.setLink p l).opState = s.opState := rfl
@[simp] theorem State.setLink_clock (s : State) (p : PortNo) (l : Link) : (s.setLink p l).clock = s.clock := rfl
@[simp] theorem State.setLink_clearances (s : State) (p : PortNo) (l : Link) : (s.setLink p l).clearances = s.clearances := rfl
@[simp] theorem State.setLink_takes (s : State) (p : PortNo) (l : Link) : (s.setLink p l).takes = s.takes := rfl
@[simp] theorem State.setLink_takeIdCounter (s : State) (p : PortNo) (l : Link) : (s.setLink p l).takeIdCounter = s.takeIdCounter := rfl
@[simp] theorem State.setLink_cueArrival (s : State) (p : PortNo) (l : Link) : (s.setLink p l).cueArrival = s.cueArrival := rfl
@[simp] theorem State.setLink_filter (s : State) (p : PortNo) (l : Link) : (s.setLink p l).filter = s.filter := rfl
@[simp] theorem State.setLink_defaultAction (s : State) (p : PortNo) (l : Link) : (s.setLink p l).defaultAction = s.defaultAction := rfl
@[simp] theorem State.setLink_pauseThreshold (s : State) (p : PortNo) (l : Link) : (s.setLink p l).pauseThreshold = s.pauseThreshold := rfl
@[simp] theorem State.setLink_directory (s : State) (p : PortNo) (l : Link) : (s.setLink p l).directory = s.directory := rfl
@[simp] theorem State.setLink_store (s : State) (p : PortNo) (l : Link) : (s.setLink p l).store = s.store := rfl
@[simp] theorem State.setLink_free (s : State) (p : PortNo) (l : Link) : (s.setLink p l).free = s.free := rfl
@[simp] theorem State.setLink_arbiter (s : State) (p : PortNo) (l : Link) : (s.setLink p l).arbiter = s.arbiter := rfl
@[simp] theorem State.setLink_lowFlag (s : State) (p : PortNo) (l : Link) : (s.setLink p l).lowFlag = s.lowFlag := rfl
@[simp] theorem State.setLink_watermark (s : State) (p : PortNo) (l : Link) : (s.setLink p l).watermark = s.watermark := rfl
@[simp] theorem State.setLink_deferral (s : State) (p : PortNo) (l : Link) : (s.setLink p l).deferral = s.deferral := rfl
@[simp] theorem State.setLink_arrivalSeq (s : State) (p : PortNo) (l : Link) : (s.setLink p l).arrivalSeq = s.arrivalSeq := rfl
@[simp] theorem State.setLink_chunks (s : State) (p : PortNo) (l : Link) : (s.setLink p l).chunks = s.chunks := rfl
@[simp] theorem State.setLink_pools (s : State) (p : PortNo) (l : Link) : (s.setLink p l).pools = s.pools := rfl
@[simp] theorem State.setLink_offerTimeout (s : State) (p : PortNo) (l : Link) : (s.setLink p l).offerTimeout = s.offerTimeout := rfl
@[simp] theorem State.setLink_grace (s : State) (p : PortNo) (l : Link) : (s.setLink p l).grace = s.grace := rfl
@[simp] theorem State.setLink_log (s : State) (p : PortNo) (l : Link) : (s.setLink p l).log = s.log := rfl
@[simp] theorem State.setLink_overrun (s : State) (p : PortNo) (l : Link) : (s.setLink p l).overrun = s.overrun := rfl
@[simp] theorem State.setLink_dropTime (s : State) (p : PortNo) (l : Link) : (s.setLink p l).dropTime = s.dropTime := rfl
@[simp] theorem State.setLink_out (s : State) (p : PortNo) (l : Link) : (s.setLink p l).out = s.out := rfl
@[simp] theorem State.setIntake_pending (s : State) (p : PortNo) (i : Intake) : (s.setIntake p i).pending = s.pending := rfl
@[simp] theorem State.setIntake_resetHeld (s : State) (p : PortNo) (i : Intake) : (s.setIntake p i).resetHeld = s.resetHeld := rfl
@[simp] theorem State.setIntake_opState (s : State) (p : PortNo) (i : Intake) : (s.setIntake p i).opState = s.opState := rfl
@[simp] theorem State.setIntake_clock (s : State) (p : PortNo) (i : Intake) : (s.setIntake p i).clock = s.clock := rfl
@[simp] theorem State.setIntake_clearances (s : State) (p : PortNo) (i : Intake) : (s.setIntake p i).clearances = s.clearances := rfl
@[simp] theorem State.setIntake_takes (s : State) (p : PortNo) (i : Intake) : (s.setIntake p i).takes = s.takes := rfl
@[simp] theorem State.setIntake_takeIdCounter (s : State) (p : PortNo) (i : Intake) : (s.setIntake p i).takeIdCounter = s.takeIdCounter := rfl
@[simp] theorem State.setIntake_cueArrival (s : State) (p : PortNo) (i : Intake) : (s.setIntake p i).cueArrival = s.cueArrival := rfl
@[simp] theorem State.setIntake_filter (s : State) (p : PortNo) (i : Intake) : (s.setIntake p i).filter = s.filter := rfl
@[simp] theorem State.setIntake_defaultAction (s : State) (p : PortNo) (i : Intake) : (s.setIntake p i).defaultAction = s.defaultAction := rfl
@[simp] theorem State.setIntake_pauseThreshold (s : State) (p : PortNo) (i : Intake) : (s.setIntake p i).pauseThreshold = s.pauseThreshold := rfl
@[simp] theorem State.setIntake_directory (s : State) (p : PortNo) (i : Intake) : (s.setIntake p i).directory = s.directory := rfl
@[simp] theorem State.setIntake_store (s : State) (p : PortNo) (i : Intake) : (s.setIntake p i).store = s.store := rfl
@[simp] theorem State.setIntake_free (s : State) (p : PortNo) (i : Intake) : (s.setIntake p i).free = s.free := rfl
@[simp] theorem State.setIntake_arbiter (s : State) (p : PortNo) (i : Intake) : (s.setIntake p i).arbiter = s.arbiter := rfl
@[simp] theorem State.setIntake_lowFlag (s : State) (p : PortNo) (i : Intake) : (s.setIntake p i).lowFlag = s.lowFlag := rfl
@[simp] theorem State.setIntake_watermark (s : State) (p : PortNo) (i : Intake) : (s.setIntake p i).watermark = s.watermark := rfl
@[simp] theorem State.setIntake_deferral (s : State) (p : PortNo) (i : Intake) : (s.setIntake p i).deferral = s.deferral := rfl
@[simp] theorem State.setIntake_arrivalSeq (s : State) (p : PortNo) (i : Intake) : (s.setIntake p i).arrivalSeq = s.arrivalSeq := rfl
@[simp] theorem State.setIntake_chunks (s : State) (p : PortNo) (i : Intake) : (s.setIntake p i).chunks = s.chunks := rfl
@[simp] theorem State.setIntake_pools (s : State) (p : PortNo) (i : Intake) : (s.setIntake p i).pools = s.pools := rfl
@[simp] theorem State.setIntake_offerTimeout (s : State) (p : PortNo) (i : Intake) : (s.setIntake p i).offerTimeout = s.offerTimeout := rfl
@[simp] theorem State.setIntake_grace (s : State) (p : PortNo) (i : Intake) : (s.setIntake p i).grace = s.grace := rfl
@[simp] theorem State.setIntake_log (s : State) (p : PortNo) (i : Intake) : (s.setIntake p i).log = s.log := rfl
@[simp] theorem State.setIntake_overrun (s : State) (p : PortNo) (i : Intake) : (s.setIntake p i).overrun = s.overrun := rfl
@[simp] theorem State.setIntake_dropTime (s : State) (p : PortNo) (i : Intake) : (s.setIntake p i).dropTime = s.dropTime := rfl
@[simp] theorem State.setIntake_out (s : State) (p : PortNo) (i : Intake) : (s.setIntake p i).out = s.out := rfl
@[simp] theorem State.setHandoff_pending (s : State) (p : PortNo) (h : Handoff) : (s.setHandoff p h).pending = s.pending := rfl
@[simp] theorem State.setHandoff_resetHeld (s : State) (p : PortNo) (h : Handoff) : (s.setHandoff p h).resetHeld = s.resetHeld := rfl
@[simp] theorem State.setHandoff_opState (s : State) (p : PortNo) (h : Handoff) : (s.setHandoff p h).opState = s.opState := rfl
@[simp] theorem State.setHandoff_clock (s : State) (p : PortNo) (h : Handoff) : (s.setHandoff p h).clock = s.clock := rfl
@[simp] theorem State.setHandoff_clearances (s : State) (p : PortNo) (h : Handoff) : (s.setHandoff p h).clearances = s.clearances := rfl
@[simp] theorem State.setHandoff_takes (s : State) (p : PortNo) (h : Handoff) : (s.setHandoff p h).takes = s.takes := rfl
@[simp] theorem State.setHandoff_takeIdCounter (s : State) (p : PortNo) (h : Handoff) : (s.setHandoff p h).takeIdCounter = s.takeIdCounter := rfl
@[simp] theorem State.setHandoff_cueArrival (s : State) (p : PortNo) (h : Handoff) : (s.setHandoff p h).cueArrival = s.cueArrival := rfl
@[simp] theorem State.setHandoff_filter (s : State) (p : PortNo) (h : Handoff) : (s.setHandoff p h).filter = s.filter := rfl
@[simp] theorem State.setHandoff_defaultAction (s : State) (p : PortNo) (h : Handoff) : (s.setHandoff p h).defaultAction = s.defaultAction := rfl
@[simp] theorem State.setHandoff_pauseThreshold (s : State) (p : PortNo) (h : Handoff) : (s.setHandoff p h).pauseThreshold = s.pauseThreshold := rfl
@[simp] theorem State.setHandoff_directory (s : State) (p : PortNo) (h : Handoff) : (s.setHandoff p h).directory = s.directory := rfl
@[simp] theorem State.setHandoff_store (s : State) (p : PortNo) (h : Handoff) : (s.setHandoff p h).store = s.store := rfl
@[simp] theorem State.setHandoff_free (s : State) (p : PortNo) (h : Handoff) : (s.setHandoff p h).free = s.free := rfl
@[simp] theorem State.setHandoff_arbiter (s : State) (p : PortNo) (h : Handoff) : (s.setHandoff p h).arbiter = s.arbiter := rfl
@[simp] theorem State.setHandoff_lowFlag (s : State) (p : PortNo) (h : Handoff) : (s.setHandoff p h).lowFlag = s.lowFlag := rfl
@[simp] theorem State.setHandoff_watermark (s : State) (p : PortNo) (h : Handoff) : (s.setHandoff p h).watermark = s.watermark := rfl
@[simp] theorem State.setHandoff_deferral (s : State) (p : PortNo) (h : Handoff) : (s.setHandoff p h).deferral = s.deferral := rfl
@[simp] theorem State.setHandoff_arrivalSeq (s : State) (p : PortNo) (h : Handoff) : (s.setHandoff p h).arrivalSeq = s.arrivalSeq := rfl
@[simp] theorem State.setHandoff_chunks (s : State) (p : PortNo) (h : Handoff) : (s.setHandoff p h).chunks = s.chunks := rfl
@[simp] theorem State.setHandoff_pools (s : State) (p : PortNo) (h : Handoff) : (s.setHandoff p h).pools = s.pools := rfl
@[simp] theorem State.setHandoff_offerTimeout (s : State) (p : PortNo) (h : Handoff) : (s.setHandoff p h).offerTimeout = s.offerTimeout := rfl
@[simp] theorem State.setHandoff_grace (s : State) (p : PortNo) (h : Handoff) : (s.setHandoff p h).grace = s.grace := rfl
@[simp] theorem State.setHandoff_log (s : State) (p : PortNo) (h : Handoff) : (s.setHandoff p h).log = s.log := rfl
@[simp] theorem State.setHandoff_overrun (s : State) (p : PortNo) (h : Handoff) : (s.setHandoff p h).overrun = s.overrun := rfl
@[simp] theorem State.setHandoff_dropTime (s : State) (p : PortNo) (h : Handoff) : (s.setHandoff p h).dropTime = s.dropTime := rfl
@[simp] theorem State.setHandoff_out (s : State) (p : PortNo) (h : Handoff) : (s.setHandoff p h).out = s.out := rfl
@[simp] theorem State.setCtx_pending (s : State) (p : PortNo) (c : Option Ctx) : (s.setCtx p c).pending = s.pending := rfl
@[simp] theorem State.setCtx_resetHeld (s : State) (p : PortNo) (c : Option Ctx) : (s.setCtx p c).resetHeld = s.resetHeld := rfl
@[simp] theorem State.setCtx_opState (s : State) (p : PortNo) (c : Option Ctx) : (s.setCtx p c).opState = s.opState := rfl
@[simp] theorem State.setCtx_clock (s : State) (p : PortNo) (c : Option Ctx) : (s.setCtx p c).clock = s.clock := rfl
@[simp] theorem State.setCtx_clearances (s : State) (p : PortNo) (c : Option Ctx) : (s.setCtx p c).clearances = s.clearances := rfl
@[simp] theorem State.setCtx_takes (s : State) (p : PortNo) (c : Option Ctx) : (s.setCtx p c).takes = s.takes := rfl
@[simp] theorem State.setCtx_takeIdCounter (s : State) (p : PortNo) (c : Option Ctx) : (s.setCtx p c).takeIdCounter = s.takeIdCounter := rfl
@[simp] theorem State.setCtx_cueArrival (s : State) (p : PortNo) (c : Option Ctx) : (s.setCtx p c).cueArrival = s.cueArrival := rfl
@[simp] theorem State.setCtx_filter (s : State) (p : PortNo) (c : Option Ctx) : (s.setCtx p c).filter = s.filter := rfl
@[simp] theorem State.setCtx_defaultAction (s : State) (p : PortNo) (c : Option Ctx) : (s.setCtx p c).defaultAction = s.defaultAction := rfl
@[simp] theorem State.setCtx_pauseThreshold (s : State) (p : PortNo) (c : Option Ctx) : (s.setCtx p c).pauseThreshold = s.pauseThreshold := rfl
@[simp] theorem State.setCtx_directory (s : State) (p : PortNo) (c : Option Ctx) : (s.setCtx p c).directory = s.directory := rfl
@[simp] theorem State.setCtx_store (s : State) (p : PortNo) (c : Option Ctx) : (s.setCtx p c).store = s.store := rfl
@[simp] theorem State.setCtx_free (s : State) (p : PortNo) (c : Option Ctx) : (s.setCtx p c).free = s.free := rfl
@[simp] theorem State.setCtx_arbiter (s : State) (p : PortNo) (c : Option Ctx) : (s.setCtx p c).arbiter = s.arbiter := rfl
@[simp] theorem State.setCtx_lowFlag (s : State) (p : PortNo) (c : Option Ctx) : (s.setCtx p c).lowFlag = s.lowFlag := rfl
@[simp] theorem State.setCtx_watermark (s : State) (p : PortNo) (c : Option Ctx) : (s.setCtx p c).watermark = s.watermark := rfl
@[simp] theorem State.setCtx_deferral (s : State) (p : PortNo) (c : Option Ctx) : (s.setCtx p c).deferral = s.deferral := rfl
@[simp] theorem State.setCtx_arrivalSeq (s : State) (p : PortNo) (c : Option Ctx) : (s.setCtx p c).arrivalSeq = s.arrivalSeq := rfl
@[simp] theorem State.setCtx_chunks (s : State) (p : PortNo) (c : Option Ctx) : (s.setCtx p c).chunks = s.chunks := rfl
@[simp] theorem State.setCtx_pools (s : State) (p : PortNo) (c : Option Ctx) : (s.setCtx p c).pools = s.pools := rfl
@[simp] theorem State.setCtx_offerTimeout (s : State) (p : PortNo) (c : Option Ctx) : (s.setCtx p c).offerTimeout = s.offerTimeout := rfl
@[simp] theorem State.setCtx_grace (s : State) (p : PortNo) (c : Option Ctx) : (s.setCtx p c).grace = s.grace := rfl
@[simp] theorem State.setCtx_log (s : State) (p : PortNo) (c : Option Ctx) : (s.setCtx p c).log = s.log := rfl
@[simp] theorem State.setCtx_overrun (s : State) (p : PortNo) (c : Option Ctx) : (s.setCtx p c).overrun = s.overrun := rfl
@[simp] theorem State.setCtx_dropTime (s : State) (p : PortNo) (c : Option Ctx) : (s.setCtx p c).dropTime = s.dropTime := rfl
@[simp] theorem State.setCtx_out (s : State) (p : PortNo) (c : Option Ctx) : (s.setCtx p c).out = s.out := rfl
@[simp] theorem State.setLastDamage_pending (s : State) (p : PortNo) (b : Option Nat) : (s.setLastDamage p b).pending = s.pending := rfl
@[simp] theorem State.setLastDamage_resetHeld (s : State) (p : PortNo) (b : Option Nat) : (s.setLastDamage p b).resetHeld = s.resetHeld := rfl
@[simp] theorem State.setLastDamage_opState (s : State) (p : PortNo) (b : Option Nat) : (s.setLastDamage p b).opState = s.opState := rfl
@[simp] theorem State.setLastDamage_clock (s : State) (p : PortNo) (b : Option Nat) : (s.setLastDamage p b).clock = s.clock := rfl
@[simp] theorem State.setLastDamage_clearances (s : State) (p : PortNo) (b : Option Nat) : (s.setLastDamage p b).clearances = s.clearances := rfl
@[simp] theorem State.setLastDamage_takes (s : State) (p : PortNo) (b : Option Nat) : (s.setLastDamage p b).takes = s.takes := rfl
@[simp] theorem State.setLastDamage_takeIdCounter (s : State) (p : PortNo) (b : Option Nat) : (s.setLastDamage p b).takeIdCounter = s.takeIdCounter := rfl
@[simp] theorem State.setLastDamage_cueArrival (s : State) (p : PortNo) (b : Option Nat) : (s.setLastDamage p b).cueArrival = s.cueArrival := rfl
@[simp] theorem State.setLastDamage_filter (s : State) (p : PortNo) (b : Option Nat) : (s.setLastDamage p b).filter = s.filter := rfl
@[simp] theorem State.setLastDamage_defaultAction (s : State) (p : PortNo) (b : Option Nat) : (s.setLastDamage p b).defaultAction = s.defaultAction := rfl
@[simp] theorem State.setLastDamage_pauseThreshold (s : State) (p : PortNo) (b : Option Nat) : (s.setLastDamage p b).pauseThreshold = s.pauseThreshold := rfl
@[simp] theorem State.setLastDamage_directory (s : State) (p : PortNo) (b : Option Nat) : (s.setLastDamage p b).directory = s.directory := rfl
@[simp] theorem State.setLastDamage_store (s : State) (p : PortNo) (b : Option Nat) : (s.setLastDamage p b).store = s.store := rfl
@[simp] theorem State.setLastDamage_free (s : State) (p : PortNo) (b : Option Nat) : (s.setLastDamage p b).free = s.free := rfl
@[simp] theorem State.setLastDamage_arbiter (s : State) (p : PortNo) (b : Option Nat) : (s.setLastDamage p b).arbiter = s.arbiter := rfl
@[simp] theorem State.setLastDamage_lowFlag (s : State) (p : PortNo) (b : Option Nat) : (s.setLastDamage p b).lowFlag = s.lowFlag := rfl
@[simp] theorem State.setLastDamage_watermark (s : State) (p : PortNo) (b : Option Nat) : (s.setLastDamage p b).watermark = s.watermark := rfl
@[simp] theorem State.setLastDamage_deferral (s : State) (p : PortNo) (b : Option Nat) : (s.setLastDamage p b).deferral = s.deferral := rfl
@[simp] theorem State.setLastDamage_arrivalSeq (s : State) (p : PortNo) (b : Option Nat) : (s.setLastDamage p b).arrivalSeq = s.arrivalSeq := rfl
@[simp] theorem State.setLastDamage_chunks (s : State) (p : PortNo) (b : Option Nat) : (s.setLastDamage p b).chunks = s.chunks := rfl
@[simp] theorem State.setLastDamage_pools (s : State) (p : PortNo) (b : Option Nat) : (s.setLastDamage p b).pools = s.pools := rfl
@[simp] theorem State.setLastDamage_offerTimeout (s : State) (p : PortNo) (b : Option Nat) : (s.setLastDamage p b).offerTimeout = s.offerTimeout := rfl
@[simp] theorem State.setLastDamage_grace (s : State) (p : PortNo) (b : Option Nat) : (s.setLastDamage p b).grace = s.grace := rfl
@[simp] theorem State.setLastDamage_log (s : State) (p : PortNo) (b : Option Nat) : (s.setLastDamage p b).log = s.log := rfl
@[simp] theorem State.setLastDamage_overrun (s : State) (p : PortNo) (b : Option Nat) : (s.setLastDamage p b).overrun = s.overrun := rfl
@[simp] theorem State.setLastDamage_dropTime (s : State) (p : PortNo) (b : Option Nat) : (s.setLastDamage p b).dropTime = s.dropTime := rfl
@[simp] theorem State.setLastDamage_out (s : State) (p : PortNo) (b : Option Nat) : (s.setLastDamage p b).out = s.out := rfl
@[simp] theorem State.updLink_pending (s : State) (p : PortNo) (f : Link → Link) : (s.updLink p f).pending = s.pending := rfl
@[simp] theorem State.updLink_resetHeld (s : State) (p : PortNo) (f : Link → Link) : (s.updLink p f).resetHeld = s.resetHeld := rfl
@[simp] theorem State.updLink_opState (s : State) (p : PortNo) (f : Link → Link) : (s.updLink p f).opState = s.opState := rfl
@[simp] theorem State.updLink_clock (s : State) (p : PortNo) (f : Link → Link) : (s.updLink p f).clock = s.clock := rfl
@[simp] theorem State.updLink_clearances (s : State) (p : PortNo) (f : Link → Link) : (s.updLink p f).clearances = s.clearances := rfl
@[simp] theorem State.updLink_takes (s : State) (p : PortNo) (f : Link → Link) : (s.updLink p f).takes = s.takes := rfl
@[simp] theorem State.updLink_takeIdCounter (s : State) (p : PortNo) (f : Link → Link) : (s.updLink p f).takeIdCounter = s.takeIdCounter := rfl
@[simp] theorem State.updLink_cueArrival (s : State) (p : PortNo) (f : Link → Link) : (s.updLink p f).cueArrival = s.cueArrival := rfl
@[simp] theorem State.updLink_filter (s : State) (p : PortNo) (f : Link → Link) : (s.updLink p f).filter = s.filter := rfl
@[simp] theorem State.updLink_defaultAction (s : State) (p : PortNo) (f : Link → Link) : (s.updLink p f).defaultAction = s.defaultAction := rfl
@[simp] theorem State.updLink_pauseThreshold (s : State) (p : PortNo) (f : Link → Link) : (s.updLink p f).pauseThreshold = s.pauseThreshold := rfl
@[simp] theorem State.updLink_directory (s : State) (p : PortNo) (f : Link → Link) : (s.updLink p f).directory = s.directory := rfl
@[simp] theorem State.updLink_store (s : State) (p : PortNo) (f : Link → Link) : (s.updLink p f).store = s.store := rfl
@[simp] theorem State.updLink_free (s : State) (p : PortNo) (f : Link → Link) : (s.updLink p f).free = s.free := rfl
@[simp] theorem State.updLink_arbiter (s : State) (p : PortNo) (f : Link → Link) : (s.updLink p f).arbiter = s.arbiter := rfl
@[simp] theorem State.updLink_lowFlag (s : State) (p : PortNo) (f : Link → Link) : (s.updLink p f).lowFlag = s.lowFlag := rfl
@[simp] theorem State.updLink_watermark (s : State) (p : PortNo) (f : Link → Link) : (s.updLink p f).watermark = s.watermark := rfl
@[simp] theorem State.updLink_deferral (s : State) (p : PortNo) (f : Link → Link) : (s.updLink p f).deferral = s.deferral := rfl
@[simp] theorem State.updLink_arrivalSeq (s : State) (p : PortNo) (f : Link → Link) : (s.updLink p f).arrivalSeq = s.arrivalSeq := rfl
@[simp] theorem State.updLink_chunks (s : State) (p : PortNo) (f : Link → Link) : (s.updLink p f).chunks = s.chunks := rfl
@[simp] theorem State.updLink_pools (s : State) (p : PortNo) (f : Link → Link) : (s.updLink p f).pools = s.pools := rfl
@[simp] theorem State.updLink_offerTimeout (s : State) (p : PortNo) (f : Link → Link) : (s.updLink p f).offerTimeout = s.offerTimeout := rfl
@[simp] theorem State.updLink_grace (s : State) (p : PortNo) (f : Link → Link) : (s.updLink p f).grace = s.grace := rfl
@[simp] theorem State.updLink_log (s : State) (p : PortNo) (f : Link → Link) : (s.updLink p f).log = s.log := rfl
@[simp] theorem State.updLink_overrun (s : State) (p : PortNo) (f : Link → Link) : (s.updLink p f).overrun = s.overrun := rfl
@[simp] theorem State.updLink_dropTime (s : State) (p : PortNo) (f : Link → Link) : (s.updLink p f).dropTime = s.dropTime := rfl
@[simp] theorem State.updLink_out (s : State) (p : PortNo) (f : Link → Link) : (s.updLink p f).out = s.out := rfl
@[simp] theorem State.setBuf_pending (s : State) (p : PortNo) (k : Bool) (b : Buffer) : (s.setBuf p k b).pending = s.pending := rfl
@[simp] theorem State.setBuf_resetHeld (s : State) (p : PortNo) (k : Bool) (b : Buffer) : (s.setBuf p k b).resetHeld = s.resetHeld := rfl
@[simp] theorem State.setBuf_opState (s : State) (p : PortNo) (k : Bool) (b : Buffer) : (s.setBuf p k b).opState = s.opState := rfl
@[simp] theorem State.setBuf_clock (s : State) (p : PortNo) (k : Bool) (b : Buffer) : (s.setBuf p k b).clock = s.clock := rfl
@[simp] theorem State.setBuf_clearances (s : State) (p : PortNo) (k : Bool) (b : Buffer) : (s.setBuf p k b).clearances = s.clearances := rfl
@[simp] theorem State.setBuf_takes (s : State) (p : PortNo) (k : Bool) (b : Buffer) : (s.setBuf p k b).takes = s.takes := rfl
@[simp] theorem State.setBuf_takeIdCounter (s : State) (p : PortNo) (k : Bool) (b : Buffer) : (s.setBuf p k b).takeIdCounter = s.takeIdCounter := rfl
@[simp] theorem State.setBuf_cueArrival (s : State) (p : PortNo) (k : Bool) (b : Buffer) : (s.setBuf p k b).cueArrival = s.cueArrival := rfl
@[simp] theorem State.setBuf_filter (s : State) (p : PortNo) (k : Bool) (b : Buffer) : (s.setBuf p k b).filter = s.filter := rfl
@[simp] theorem State.setBuf_defaultAction (s : State) (p : PortNo) (k : Bool) (b : Buffer) : (s.setBuf p k b).defaultAction = s.defaultAction := rfl
@[simp] theorem State.setBuf_pauseThreshold (s : State) (p : PortNo) (k : Bool) (b : Buffer) : (s.setBuf p k b).pauseThreshold = s.pauseThreshold := rfl
@[simp] theorem State.setBuf_directory (s : State) (p : PortNo) (k : Bool) (b : Buffer) : (s.setBuf p k b).directory = s.directory := rfl
@[simp] theorem State.setBuf_store (s : State) (p : PortNo) (k : Bool) (b : Buffer) : (s.setBuf p k b).store = s.store := rfl
@[simp] theorem State.setBuf_free (s : State) (p : PortNo) (k : Bool) (b : Buffer) : (s.setBuf p k b).free = s.free := rfl
@[simp] theorem State.setBuf_arbiter (s : State) (p : PortNo) (k : Bool) (b : Buffer) : (s.setBuf p k b).arbiter = s.arbiter := rfl
@[simp] theorem State.setBuf_lowFlag (s : State) (p : PortNo) (k : Bool) (b : Buffer) : (s.setBuf p k b).lowFlag = s.lowFlag := rfl
@[simp] theorem State.setBuf_watermark (s : State) (p : PortNo) (k : Bool) (b : Buffer) : (s.setBuf p k b).watermark = s.watermark := rfl
@[simp] theorem State.setBuf_deferral (s : State) (p : PortNo) (k : Bool) (b : Buffer) : (s.setBuf p k b).deferral = s.deferral := rfl
@[simp] theorem State.setBuf_arrivalSeq (s : State) (p : PortNo) (k : Bool) (b : Buffer) : (s.setBuf p k b).arrivalSeq = s.arrivalSeq := rfl
@[simp] theorem State.setBuf_chunks (s : State) (p : PortNo) (k : Bool) (b : Buffer) : (s.setBuf p k b).chunks = s.chunks := rfl
@[simp] theorem State.setBuf_pools (s : State) (p : PortNo) (k : Bool) (b : Buffer) : (s.setBuf p k b).pools = s.pools := rfl
@[simp] theorem State.setBuf_offerTimeout (s : State) (p : PortNo) (k : Bool) (b : Buffer) : (s.setBuf p k b).offerTimeout = s.offerTimeout := rfl
@[simp] theorem State.setBuf_grace (s : State) (p : PortNo) (k : Bool) (b : Buffer) : (s.setBuf p k b).grace = s.grace := rfl
@[simp] theorem State.setBuf_log (s : State) (p : PortNo) (k : Bool) (b : Buffer) : (s.setBuf p k b).log = s.log := rfl
@[simp] theorem State.setBuf_overrun (s : State) (p : PortNo) (k : Bool) (b : Buffer) : (s.setBuf p k b).overrun = s.overrun := rfl
@[simp] theorem State.setBuf_dropTime (s : State) (p : PortNo) (k : Bool) (b : Buffer) : (s.setBuf p k b).dropTime = s.dropTime := rfl
@[simp] theorem State.setBuf_out (s : State) (p : PortNo) (k : Bool) (b : Buffer) : (s.setBuf p k b).out = s.out := rfl
@[simp] theorem State.updTake_pending (s : State) (n : Nat) (f : Take → Take) : (s.updTake n f).pending = s.pending := rfl
@[simp] theorem State.updTake_resetHeld (s : State) (n : Nat) (f : Take → Take) : (s.updTake n f).resetHeld = s.resetHeld := rfl
@[simp] theorem State.updTake_opState (s : State) (n : Nat) (f : Take → Take) : (s.updTake n f).opState = s.opState := rfl
@[simp] theorem State.updTake_clock (s : State) (n : Nat) (f : Take → Take) : (s.updTake n f).clock = s.clock := rfl
@[simp] theorem State.updTake_clearances (s : State) (n : Nat) (f : Take → Take) : (s.updTake n f).clearances = s.clearances := rfl
@[simp] theorem State.updTake_ports (s : State) (n : Nat) (f : Take → Take) : (s.updTake n f).ports = s.ports := rfl
@[simp] theorem State.updTake_takeIdCounter (s : State) (n : Nat) (f : Take → Take) : (s.updTake n f).takeIdCounter = s.takeIdCounter := rfl
@[simp] theorem State.updTake_cueArrival (s : State) (n : Nat) (f : Take → Take) : (s.updTake n f).cueArrival = s.cueArrival := rfl
@[simp] theorem State.updTake_filter (s : State) (n : Nat) (f : Take → Take) : (s.updTake n f).filter = s.filter := rfl
@[simp] theorem State.updTake_defaultAction (s : State) (n : Nat) (f : Take → Take) : (s.updTake n f).defaultAction = s.defaultAction := rfl
@[simp] theorem State.updTake_pauseThreshold (s : State) (n : Nat) (f : Take → Take) : (s.updTake n f).pauseThreshold = s.pauseThreshold := rfl
@[simp] theorem State.updTake_directory (s : State) (n : Nat) (f : Take → Take) : (s.updTake n f).directory = s.directory := rfl
@[simp] theorem State.updTake_store (s : State) (n : Nat) (f : Take → Take) : (s.updTake n f).store = s.store := rfl
@[simp] theorem State.updTake_free (s : State) (n : Nat) (f : Take → Take) : (s.updTake n f).free = s.free := rfl
@[simp] theorem State.updTake_arbiter (s : State) (n : Nat) (f : Take → Take) : (s.updTake n f).arbiter = s.arbiter := rfl
@[simp] theorem State.updTake_lowFlag (s : State) (n : Nat) (f : Take → Take) : (s.updTake n f).lowFlag = s.lowFlag := rfl
@[simp] theorem State.updTake_watermark (s : State) (n : Nat) (f : Take → Take) : (s.updTake n f).watermark = s.watermark := rfl
@[simp] theorem State.updTake_deferral (s : State) (n : Nat) (f : Take → Take) : (s.updTake n f).deferral = s.deferral := rfl
@[simp] theorem State.updTake_arrivalSeq (s : State) (n : Nat) (f : Take → Take) : (s.updTake n f).arrivalSeq = s.arrivalSeq := rfl
@[simp] theorem State.updTake_chunks (s : State) (n : Nat) (f : Take → Take) : (s.updTake n f).chunks = s.chunks := rfl
@[simp] theorem State.updTake_pools (s : State) (n : Nat) (f : Take → Take) : (s.updTake n f).pools = s.pools := rfl
@[simp] theorem State.updTake_offerTimeout (s : State) (n : Nat) (f : Take → Take) : (s.updTake n f).offerTimeout = s.offerTimeout := rfl
@[simp] theorem State.updTake_grace (s : State) (n : Nat) (f : Take → Take) : (s.updTake n f).grace = s.grace := rfl
@[simp] theorem State.updTake_log (s : State) (n : Nat) (f : Take → Take) : (s.updTake n f).log = s.log := rfl
@[simp] theorem State.updTake_overrun (s : State) (n : Nat) (f : Take → Take) : (s.updTake n f).overrun = s.overrun := rfl
@[simp] theorem State.updTake_dropTime (s : State) (n : Nat) (f : Take → Take) : (s.updTake n f).dropTime = s.dropTime := rfl
@[simp] theorem State.updTake_out (s : State) (n : Nat) (f : Take → Take) : (s.updTake n f).out = s.out := rfl
@[simp] theorem State.clearReservations_pending (s : State) (n : ChunkName) : (s.clearReservations n).pending = s.pending := rfl
@[simp] theorem State.clearReservations_resetHeld (s : State) (n : ChunkName) : (s.clearReservations n).resetHeld = s.resetHeld := rfl
@[simp] theorem State.clearReservations_opState (s : State) (n : ChunkName) : (s.clearReservations n).opState = s.opState := rfl
@[simp] theorem State.clearReservations_clock (s : State) (n : ChunkName) : (s.clearReservations n).clock = s.clock := rfl
@[simp] theorem State.clearReservations_clearances (s : State) (n : ChunkName) : (s.clearReservations n).clearances = s.clearances := rfl
@[simp] theorem State.clearReservations_takes (s : State) (n : ChunkName) : (s.clearReservations n).takes = s.takes := rfl
@[simp] theorem State.clearReservations_takeIdCounter (s : State) (n : ChunkName) : (s.clearReservations n).takeIdCounter = s.takeIdCounter := rfl
@[simp] theorem State.clearReservations_cueArrival (s : State) (n : ChunkName) : (s.clearReservations n).cueArrival = s.cueArrival := rfl
@[simp] theorem State.clearReservations_filter (s : State) (n : ChunkName) : (s.clearReservations n).filter = s.filter := rfl
@[simp] theorem State.clearReservations_defaultAction (s : State) (n : ChunkName) : (s.clearReservations n).defaultAction = s.defaultAction := rfl
@[simp] theorem State.clearReservations_pauseThreshold (s : State) (n : ChunkName) : (s.clearReservations n).pauseThreshold = s.pauseThreshold := rfl
@[simp] theorem State.clearReservations_directory (s : State) (n : ChunkName) : (s.clearReservations n).directory = s.directory := rfl
@[simp] theorem State.clearReservations_store (s : State) (n : ChunkName) : (s.clearReservations n).store = s.store := rfl
@[simp] theorem State.clearReservations_free (s : State) (n : ChunkName) : (s.clearReservations n).free = s.free := rfl
@[simp] theorem State.clearReservations_arbiter (s : State) (n : ChunkName) : (s.clearReservations n).arbiter = s.arbiter := rfl
@[simp] theorem State.clearReservations_lowFlag (s : State) (n : ChunkName) : (s.clearReservations n).lowFlag = s.lowFlag := rfl
@[simp] theorem State.clearReservations_watermark (s : State) (n : ChunkName) : (s.clearReservations n).watermark = s.watermark := rfl
@[simp] theorem State.clearReservations_deferral (s : State) (n : ChunkName) : (s.clearReservations n).deferral = s.deferral := rfl
@[simp] theorem State.clearReservations_arrivalSeq (s : State) (n : ChunkName) : (s.clearReservations n).arrivalSeq = s.arrivalSeq := rfl
@[simp] theorem State.clearReservations_chunks (s : State) (n : ChunkName) : (s.clearReservations n).chunks = s.chunks := rfl
@[simp] theorem State.clearReservations_pools (s : State) (n : ChunkName) : (s.clearReservations n).pools = s.pools := rfl
@[simp] theorem State.clearReservations_offerTimeout (s : State) (n : ChunkName) : (s.clearReservations n).offerTimeout = s.offerTimeout := rfl
@[simp] theorem State.clearReservations_grace (s : State) (n : ChunkName) : (s.clearReservations n).grace = s.grace := rfl
@[simp] theorem State.clearReservations_log (s : State) (n : ChunkName) : (s.clearReservations n).log = s.log := rfl
@[simp] theorem State.clearReservations_overrun (s : State) (n : ChunkName) : (s.clearReservations n).overrun = s.overrun := rfl
@[simp] theorem State.clearReservations_dropTime (s : State) (n : ChunkName) : (s.clearReservations n).dropTime = s.dropTime := rfl
@[simp] theorem State.clearReservations_out (s : State) (n : ChunkName) : (s.clearReservations n).out = s.out := rfl
@[simp] theorem State.updChunk_pending (s : State) (n : ChunkName) (f : Chunk → Chunk) : (s.updChunk n f).pending = s.pending := rfl
@[simp] theorem State.updChunk_resetHeld (s : State) (n : ChunkName) (f : Chunk → Chunk) : (s.updChunk n f).resetHeld = s.resetHeld := rfl
@[simp] theorem State.updChunk_opState (s : State) (n : ChunkName) (f : Chunk → Chunk) : (s.updChunk n f).opState = s.opState := rfl
@[simp] theorem State.updChunk_clock (s : State) (n : ChunkName) (f : Chunk → Chunk) : (s.updChunk n f).clock = s.clock := rfl
@[simp] theorem State.updChunk_clearances (s : State) (n : ChunkName) (f : Chunk → Chunk) : (s.updChunk n f).clearances = s.clearances := rfl
@[simp] theorem State.updChunk_takes (s : State) (n : ChunkName) (f : Chunk → Chunk) : (s.updChunk n f).takes = s.takes := rfl
@[simp] theorem State.updChunk_takeIdCounter (s : State) (n : ChunkName) (f : Chunk → Chunk) : (s.updChunk n f).takeIdCounter = s.takeIdCounter := rfl
@[simp] theorem State.updChunk_cueArrival (s : State) (n : ChunkName) (f : Chunk → Chunk) : (s.updChunk n f).cueArrival = s.cueArrival := rfl
@[simp] theorem State.updChunk_filter (s : State) (n : ChunkName) (f : Chunk → Chunk) : (s.updChunk n f).filter = s.filter := rfl
@[simp] theorem State.updChunk_defaultAction (s : State) (n : ChunkName) (f : Chunk → Chunk) : (s.updChunk n f).defaultAction = s.defaultAction := rfl
@[simp] theorem State.updChunk_pauseThreshold (s : State) (n : ChunkName) (f : Chunk → Chunk) : (s.updChunk n f).pauseThreshold = s.pauseThreshold := rfl
@[simp] theorem State.updChunk_directory (s : State) (n : ChunkName) (f : Chunk → Chunk) : (s.updChunk n f).directory = s.directory := rfl
@[simp] theorem State.updChunk_store (s : State) (n : ChunkName) (f : Chunk → Chunk) : (s.updChunk n f).store = s.store := rfl
@[simp] theorem State.updChunk_free (s : State) (n : ChunkName) (f : Chunk → Chunk) : (s.updChunk n f).free = s.free := rfl
@[simp] theorem State.updChunk_arbiter (s : State) (n : ChunkName) (f : Chunk → Chunk) : (s.updChunk n f).arbiter = s.arbiter := rfl
@[simp] theorem State.updChunk_lowFlag (s : State) (n : ChunkName) (f : Chunk → Chunk) : (s.updChunk n f).lowFlag = s.lowFlag := rfl
@[simp] theorem State.updChunk_watermark (s : State) (n : ChunkName) (f : Chunk → Chunk) : (s.updChunk n f).watermark = s.watermark := rfl
@[simp] theorem State.updChunk_deferral (s : State) (n : ChunkName) (f : Chunk → Chunk) : (s.updChunk n f).deferral = s.deferral := rfl
@[simp] theorem State.updChunk_arrivalSeq (s : State) (n : ChunkName) (f : Chunk → Chunk) : (s.updChunk n f).arrivalSeq = s.arrivalSeq := rfl
@[simp] theorem State.updChunk_pools (s : State) (n : ChunkName) (f : Chunk → Chunk) : (s.updChunk n f).pools = s.pools := rfl
@[simp] theorem State.updChunk_offerTimeout (s : State) (n : ChunkName) (f : Chunk → Chunk) : (s.updChunk n f).offerTimeout = s.offerTimeout := rfl
@[simp] theorem State.updChunk_grace (s : State) (n : ChunkName) (f : Chunk → Chunk) : (s.updChunk n f).grace = s.grace := rfl
@[simp] theorem State.updChunk_log (s : State) (n : ChunkName) (f : Chunk → Chunk) : (s.updChunk n f).log = s.log := rfl
@[simp] theorem State.updChunk_overrun (s : State) (n : ChunkName) (f : Chunk → Chunk) : (s.updChunk n f).overrun = s.overrun := rfl
@[simp] theorem State.updChunk_dropTime (s : State) (n : ChunkName) (f : Chunk → Chunk) : (s.updChunk n f).dropTime = s.dropTime := rfl
@[simp] theorem State.updChunk_out (s : State) (n : ChunkName) (f : Chunk → Chunk) : (s.updChunk n f).out = s.out := rfl
@[simp] theorem State.freeChunk_pending (s : State) (n : ChunkName) : (s.freeChunk n).pending = s.pending := rfl
@[simp] theorem State.freeChunk_resetHeld (s : State) (n : ChunkName) : (s.freeChunk n).resetHeld = s.resetHeld := rfl
@[simp] theorem State.freeChunk_opState (s : State) (n : ChunkName) : (s.freeChunk n).opState = s.opState := rfl
@[simp] theorem State.freeChunk_clock (s : State) (n : ChunkName) : (s.freeChunk n).clock = s.clock := rfl
@[simp] theorem State.freeChunk_clearances (s : State) (n : ChunkName) : (s.freeChunk n).clearances = s.clearances := rfl
@[simp] theorem State.freeChunk_ports (s : State) (n : ChunkName) : (s.freeChunk n).ports = s.ports := rfl
@[simp] theorem State.freeChunk_takes (s : State) (n : ChunkName) : (s.freeChunk n).takes = s.takes := rfl
@[simp] theorem State.freeChunk_takeIdCounter (s : State) (n : ChunkName) : (s.freeChunk n).takeIdCounter = s.takeIdCounter := rfl
@[simp] theorem State.freeChunk_cueArrival (s : State) (n : ChunkName) : (s.freeChunk n).cueArrival = s.cueArrival := rfl
@[simp] theorem State.freeChunk_filter (s : State) (n : ChunkName) : (s.freeChunk n).filter = s.filter := rfl
@[simp] theorem State.freeChunk_defaultAction (s : State) (n : ChunkName) : (s.freeChunk n).defaultAction = s.defaultAction := rfl
@[simp] theorem State.freeChunk_pauseThreshold (s : State) (n : ChunkName) : (s.freeChunk n).pauseThreshold = s.pauseThreshold := rfl
@[simp] theorem State.freeChunk_directory (s : State) (n : ChunkName) : (s.freeChunk n).directory = s.directory := rfl
@[simp] theorem State.freeChunk_store (s : State) (n : ChunkName) : (s.freeChunk n).store = s.store := rfl
@[simp] theorem State.freeChunk_free (s : State) (n : ChunkName) : (s.freeChunk n).free = s.free := rfl
@[simp] theorem State.freeChunk_arbiter (s : State) (n : ChunkName) : (s.freeChunk n).arbiter = s.arbiter := rfl
@[simp] theorem State.freeChunk_lowFlag (s : State) (n : ChunkName) : (s.freeChunk n).lowFlag = s.lowFlag := rfl
@[simp] theorem State.freeChunk_watermark (s : State) (n : ChunkName) : (s.freeChunk n).watermark = s.watermark := rfl
@[simp] theorem State.freeChunk_deferral (s : State) (n : ChunkName) : (s.freeChunk n).deferral = s.deferral := rfl
@[simp] theorem State.freeChunk_arrivalSeq (s : State) (n : ChunkName) : (s.freeChunk n).arrivalSeq = s.arrivalSeq := rfl
@[simp] theorem State.freeChunk_pools (s : State) (n : ChunkName) : (s.freeChunk n).pools = s.pools := rfl
@[simp] theorem State.freeChunk_offerTimeout (s : State) (n : ChunkName) : (s.freeChunk n).offerTimeout = s.offerTimeout := rfl
@[simp] theorem State.freeChunk_grace (s : State) (n : ChunkName) : (s.freeChunk n).grace = s.grace := rfl
@[simp] theorem State.freeChunk_log (s : State) (n : ChunkName) : (s.freeChunk n).log = s.log := rfl
@[simp] theorem State.freeChunk_overrun (s : State) (n : ChunkName) : (s.freeChunk n).overrun = s.overrun := rfl
@[simp] theorem State.freeChunk_dropTime (s : State) (n : ChunkName) : (s.freeChunk n).dropTime = s.dropTime := rfl
@[simp] theorem State.freeChunk_out (s : State) (n : ChunkName) : (s.freeChunk n).out = s.out := rfl
@[simp] theorem State.setPool_pending (s : State) (k : PoolId) (q : Pool) : (s.setPool k q).pending = s.pending := rfl
@[simp] theorem State.setPool_resetHeld (s : State) (k : PoolId) (q : Pool) : (s.setPool k q).resetHeld = s.resetHeld := rfl
@[simp] theorem State.setPool_opState (s : State) (k : PoolId) (q : Pool) : (s.setPool k q).opState = s.opState := rfl
@[simp] theorem State.setPool_clock (s : State) (k : PoolId) (q : Pool) : (s.setPool k q).clock = s.clock := rfl
@[simp] theorem State.setPool_clearances (s : State) (k : PoolId) (q : Pool) : (s.setPool k q).clearances = s.clearances := rfl
@[simp] theorem State.setPool_ports (s : State) (k : PoolId) (q : Pool) : (s.setPool k q).ports = s.ports := rfl
@[simp] theorem State.setPool_takes (s : State) (k : PoolId) (q : Pool) : (s.setPool k q).takes = s.takes := rfl
@[simp] theorem State.setPool_takeIdCounter (s : State) (k : PoolId) (q : Pool) : (s.setPool k q).takeIdCounter = s.takeIdCounter := rfl
@[simp] theorem State.setPool_cueArrival (s : State) (k : PoolId) (q : Pool) : (s.setPool k q).cueArrival = s.cueArrival := rfl
@[simp] theorem State.setPool_filter (s : State) (k : PoolId) (q : Pool) : (s.setPool k q).filter = s.filter := rfl
@[simp] theorem State.setPool_defaultAction (s : State) (k : PoolId) (q : Pool) : (s.setPool k q).defaultAction = s.defaultAction := rfl
@[simp] theorem State.setPool_pauseThreshold (s : State) (k : PoolId) (q : Pool) : (s.setPool k q).pauseThreshold = s.pauseThreshold := rfl
@[simp] theorem State.setPool_directory (s : State) (k : PoolId) (q : Pool) : (s.setPool k q).directory = s.directory := rfl
@[simp] theorem State.setPool_store (s : State) (k : PoolId) (q : Pool) : (s.setPool k q).store = s.store := rfl
@[simp] theorem State.setPool_free (s : State) (k : PoolId) (q : Pool) : (s.setPool k q).free = s.free := rfl
@[simp] theorem State.setPool_arbiter (s : State) (k : PoolId) (q : Pool) : (s.setPool k q).arbiter = s.arbiter := rfl
@[simp] theorem State.setPool_lowFlag (s : State) (k : PoolId) (q : Pool) : (s.setPool k q).lowFlag = s.lowFlag := rfl
@[simp] theorem State.setPool_watermark (s : State) (k : PoolId) (q : Pool) : (s.setPool k q).watermark = s.watermark := rfl
@[simp] theorem State.setPool_deferral (s : State) (k : PoolId) (q : Pool) : (s.setPool k q).deferral = s.deferral := rfl
@[simp] theorem State.setPool_arrivalSeq (s : State) (k : PoolId) (q : Pool) : (s.setPool k q).arrivalSeq = s.arrivalSeq := rfl
@[simp] theorem State.setPool_chunks (s : State) (k : PoolId) (q : Pool) : (s.setPool k q).chunks = s.chunks := rfl
@[simp] theorem State.setPool_offerTimeout (s : State) (k : PoolId) (q : Pool) : (s.setPool k q).offerTimeout = s.offerTimeout := rfl
@[simp] theorem State.setPool_grace (s : State) (k : PoolId) (q : Pool) : (s.setPool k q).grace = s.grace := rfl
@[simp] theorem State.setPool_log (s : State) (k : PoolId) (q : Pool) : (s.setPool k q).log = s.log := rfl
@[simp] theorem State.setPool_overrun (s : State) (k : PoolId) (q : Pool) : (s.setPool k q).overrun = s.overrun := rfl
@[simp] theorem State.setPool_dropTime (s : State) (k : PoolId) (q : Pool) : (s.setPool k q).dropTime = s.dropTime := rfl
@[simp] theorem State.setPool_out (s : State) (k : PoolId) (q : Pool) : (s.setPool k q).out = s.out := rfl
@[simp] theorem State.leaveReady_pending (s : State) (p : PortNo) : (s.leaveReady p).pending = s.pending := rfl
@[simp] theorem State.leaveReady_resetHeld (s : State) (p : PortNo) : (s.leaveReady p).resetHeld = s.resetHeld := rfl
@[simp] theorem State.leaveReady_opState (s : State) (p : PortNo) : (s.leaveReady p).opState = s.opState := rfl
@[simp] theorem State.leaveReady_clock (s : State) (p : PortNo) : (s.leaveReady p).clock = s.clock := rfl
@[simp] theorem State.leaveReady_clearances (s : State) (p : PortNo) : (s.leaveReady p).clearances = s.clearances := rfl
@[simp] theorem State.leaveReady_ports (s : State) (p : PortNo) : (s.leaveReady p).ports = s.ports := rfl
@[simp] theorem State.leaveReady_takes (s : State) (p : PortNo) : (s.leaveReady p).takes = s.takes := rfl
@[simp] theorem State.leaveReady_takeIdCounter (s : State) (p : PortNo) : (s.leaveReady p).takeIdCounter = s.takeIdCounter := rfl
@[simp] theorem State.leaveReady_cueArrival (s : State) (p : PortNo) : (s.leaveReady p).cueArrival = s.cueArrival := rfl
@[simp] theorem State.leaveReady_filter (s : State) (p : PortNo) : (s.leaveReady p).filter = s.filter := rfl
@[simp] theorem State.leaveReady_defaultAction (s : State) (p : PortNo) : (s.leaveReady p).defaultAction = s.defaultAction := rfl
@[simp] theorem State.leaveReady_pauseThreshold (s : State) (p : PortNo) : (s.leaveReady p).pauseThreshold = s.pauseThreshold := rfl
@[simp] theorem State.leaveReady_directory (s : State) (p : PortNo) : (s.leaveReady p).directory = s.directory := rfl
@[simp] theorem State.leaveReady_store (s : State) (p : PortNo) : (s.leaveReady p).store = s.store := rfl
@[simp] theorem State.leaveReady_free (s : State) (p : PortNo) : (s.leaveReady p).free = s.free := rfl
@[simp] theorem State.leaveReady_arbiter (s : State) (p : PortNo) : (s.leaveReady p).arbiter = s.arbiter := rfl
@[simp] theorem State.leaveReady_lowFlag (s : State) (p : PortNo) : (s.leaveReady p).lowFlag = s.lowFlag := rfl
@[simp] theorem State.leaveReady_watermark (s : State) (p : PortNo) : (s.leaveReady p).watermark = s.watermark := rfl
@[simp] theorem State.leaveReady_deferral (s : State) (p : PortNo) : (s.leaveReady p).deferral = s.deferral := rfl
@[simp] theorem State.leaveReady_arrivalSeq (s : State) (p : PortNo) : (s.leaveReady p).arrivalSeq = s.arrivalSeq := rfl
@[simp] theorem State.leaveReady_chunks (s : State) (p : PortNo) : (s.leaveReady p).chunks = s.chunks := rfl
@[simp] theorem State.leaveReady_offerTimeout (s : State) (p : PortNo) : (s.leaveReady p).offerTimeout = s.offerTimeout := rfl
@[simp] theorem State.leaveReady_grace (s : State) (p : PortNo) : (s.leaveReady p).grace = s.grace := rfl
@[simp] theorem State.leaveReady_log (s : State) (p : PortNo) : (s.leaveReady p).log = s.log := rfl
@[simp] theorem State.leaveReady_overrun (s : State) (p : PortNo) : (s.leaveReady p).overrun = s.overrun := rfl
@[simp] theorem State.leaveReady_dropTime (s : State) (p : PortNo) : (s.leaveReady p).dropTime = s.dropTime := rfl
@[simp] theorem State.leaveReady_out (s : State) (p : PortNo) : (s.leaveReady p).out = s.out := rfl

/-! ### Ports: read after write -/

@[simp] theorem State.port_setPort (s : State) (p r : PortNo) (q : Port) :
    (s.setPort p q).port r = if r = p then q else s.port r := by
  simp only [State.port, State.setPort, Fin.getElem_fin]
  rw [Vector.getElem_set]
  simp only [Fin.ext_iff, eq_comm]

theorem State.port_setPort_self (s : State) (p : PortNo) (q : Port) : (s.setPort p q).port p = q := by
  simp

theorem State.port_setPort_ne (s : State) {p r : PortNo} (h : r ≠ p) (q : Port) :
    (s.setPort p q).port r = s.port r := by simp [h]

@[simp] theorem State.link_setLink (s : State) (p r : PortNo) (l : Link) :
    (s.setLink p l).link r = if r = p then l else s.link r := by
  simp only [State.setLink, State.link, State.port_setPort]; split <;> rfl

@[simp] theorem State.intake_setLink (s : State) (p r : PortNo) (l : Link) :
    (s.setLink p l).intake r = s.intake r := by
  simp only [State.setLink, State.intake, State.port_setPort]; split <;> simp_all

@[simp] theorem State.handoff_setLink (s : State) (p r : PortNo) (l : Link) :
    (s.setLink p l).handoff r = s.handoff r := by
  simp only [State.setLink, State.handoff, State.port_setPort]; split <;> simp_all

@[simp] theorem State.ctx_setLink (s : State) (p r : PortNo) (l : Link) :
    (s.setLink p l).ctx r = s.ctx r := by
  simp only [State.setLink, State.ctx, State.port_setPort]; split <;> simp_all

@[simp] theorem State.lastDamage_setLink (s : State) (p r : PortNo) (l : Link) :
    ((s.setLink p l).port r).lastDamage = (s.port r).lastDamage := by
  simp only [State.setLink, State.port_setPort]; split <;> simp_all

@[simp] theorem State.link_setIntake (s : State) (p r : PortNo) (i : Intake) :
    (s.setIntake p i).link r = s.link r := by
  simp only [State.setIntake, State.link, State.port_setPort]; split <;> simp_all

@[simp] theorem State.intake_setIntake (s : State) (p r : PortNo) (i : Intake) :
    (s.setIntake p i).intake r = if r = p then i else s.intake r := by
  simp only [State.setIntake, State.intake, State.port_setPort]; split <;> rfl

@[simp] theorem State.handoff_setIntake (s : State) (p r : PortNo) (i : Intake) :
    (s.setIntake p i).handoff r = s.handoff r := by
  simp only [State.setIntake, State.handoff, State.port_setPort]; split <;> simp_all

@[simp] theorem State.ctx_setIntake (s : State) (p r : PortNo) (i : Intake) :
    (s.setIntake p i).ctx r = s.ctx r := by
  simp only [State.setIntake, State.ctx, State.port_setPort]; split <;> simp_all

@[simp] theorem State.lastDamage_setIntake (s : State) (p r : PortNo) (i : Intake) :
    ((s.setIntake p i).port r).lastDamage = (s.port r).lastDamage := by
  simp only [State.setIntake, State.port_setPort]; split <;> simp_all

@[simp] theorem State.link_setHandoff (s : State) (p r : PortNo) (h : Handoff) :
    (s.setHandoff p h).link r = s.link r := by
  simp only [State.setHandoff, State.link, State.port_setPort]; split <;> simp_all

@[simp] theorem State.intake_setHandoff (s : State) (p r : PortNo) (h : Handoff) :
    (s.setHandoff p h).intake r = s.intake r := by
  simp only [State.setHandoff, State.intake, State.port_setPort]; split <;> simp_all

@[simp] theorem State.handoff_setHandoff (s : State) (p r : PortNo) (h : Handoff) :
    (s.setHandoff p h).handoff r = if r = p then h else s.handoff r := by
  simp only [State.setHandoff, State.handoff, State.port_setPort]; split <;> rfl

@[simp] theorem State.ctx_setHandoff (s : State) (p r : PortNo) (h : Handoff) :
    (s.setHandoff p h).ctx r = s.ctx r := by
  simp only [State.setHandoff, State.ctx, State.port_setPort]; split <;> simp_all

@[simp] theorem State.lastDamage_setHandoff (s : State) (p r : PortNo) (h : Handoff) :
    ((s.setHandoff p h).port r).lastDamage = (s.port r).lastDamage := by
  simp only [State.setHandoff, State.port_setPort]; split <;> simp_all

@[simp] theorem State.link_setCtx (s : State) (p r : PortNo) (c : Option Ctx) :
    (s.setCtx p c).link r = s.link r := by
  simp only [State.setCtx, State.link, State.port_setPort]; split <;> simp_all

@[simp] theorem State.intake_setCtx (s : State) (p r : PortNo) (c : Option Ctx) :
    (s.setCtx p c).intake r = s.intake r := by
  simp only [State.setCtx, State.intake, State.port_setPort]; split <;> simp_all

@[simp] theorem State.handoff_setCtx (s : State) (p r : PortNo) (c : Option Ctx) :
    (s.setCtx p c).handoff r = s.handoff r := by
  simp only [State.setCtx, State.handoff, State.port_setPort]; split <;> simp_all

@[simp] theorem State.ctx_setCtx (s : State) (p r : PortNo) (c : Option Ctx) :
    (s.setCtx p c).ctx r = if r = p then c else s.ctx r := by
  simp only [State.setCtx, State.ctx, State.port_setPort]; split <;> rfl

@[simp] theorem State.lastDamage_setCtx (s : State) (p r : PortNo) (c : Option Ctx) :
    ((s.setCtx p c).port r).lastDamage = (s.port r).lastDamage := by
  simp only [State.setCtx, State.port_setPort]; split <;> simp_all

@[simp] theorem State.link_setLastDamage (s : State) (p r : PortNo) (b : Option Nat) :
    (s.setLastDamage p b).link r = s.link r := by
  simp only [State.setLastDamage, State.link, State.port_setPort]; split <;> simp_all

@[simp] theorem State.intake_setLastDamage (s : State) (p r : PortNo) (b : Option Nat) :
    (s.setLastDamage p b).intake r = s.intake r := by
  simp only [State.setLastDamage, State.intake, State.port_setPort]; split <;> simp_all

@[simp] theorem State.handoff_setLastDamage (s : State) (p r : PortNo) (b : Option Nat) :
    (s.setLastDamage p b).handoff r = s.handoff r := by
  simp only [State.setLastDamage, State.handoff, State.port_setPort]; split <;> simp_all

@[simp] theorem State.ctx_setLastDamage (s : State) (p r : PortNo) (b : Option Nat) :
    (s.setLastDamage p b).ctx r = s.ctx r := by
  simp only [State.setLastDamage, State.ctx, State.port_setPort]; split <;> simp_all

@[simp] theorem State.lastDamage_setLastDamage (s : State) (p r : PortNo) (b : Option Nat) :
    ((s.setLastDamage p b).port r).lastDamage = if r = p then b else (s.port r).lastDamage := by
  simp only [State.setLastDamage, State.port_setPort]; split <;> rfl

/-! ### Records that do not hold the changed field -/
@[simp] theorem State.port_updTake (s : State) (n : Nat) (f : Take → Take) (r : PortNo) : (s.updTake n f).port r = s.port r := rfl
@[simp] theorem State.link_updTake (s : State) (n : Nat) (f : Take → Take) (r : PortNo) : (s.updTake n f).link r = s.link r := rfl
@[simp] theorem State.intake_updTake (s : State) (n : Nat) (f : Take → Take) (r : PortNo) : (s.updTake n f).intake r = s.intake r := rfl
@[simp] theorem State.handoff_updTake (s : State) (n : Nat) (f : Take → Take) (r : PortNo) : (s.updTake n f).handoff r = s.handoff r := rfl
@[simp] theorem State.ctx_updTake (s : State) (n : Nat) (f : Take → Take) (r : PortNo) : (s.updTake n f).ctx r = s.ctx r := rfl
@[simp] theorem State.port_freeChunk (s : State) (n : ChunkName) (r : PortNo) : (s.freeChunk n).port r = s.port r := rfl
@[simp] theorem State.link_freeChunk (s : State) (n : ChunkName) (r : PortNo) : (s.freeChunk n).link r = s.link r := rfl
@[simp] theorem State.intake_freeChunk (s : State) (n : ChunkName) (r : PortNo) : (s.freeChunk n).intake r = s.intake r := rfl
@[simp] theorem State.handoff_freeChunk (s : State) (n : ChunkName) (r : PortNo) : (s.freeChunk n).handoff r = s.handoff r := rfl
@[simp] theorem State.ctx_freeChunk (s : State) (n : ChunkName) (r : PortNo) : (s.freeChunk n).ctx r = s.ctx r := rfl
@[simp] theorem State.port_setPool (s : State) (k : PoolId) (q : Pool) (r : PortNo) : (s.setPool k q).port r = s.port r := rfl
@[simp] theorem State.link_setPool (s : State) (k : PoolId) (q : Pool) (r : PortNo) : (s.setPool k q).link r = s.link r := rfl
@[simp] theorem State.intake_setPool (s : State) (k : PoolId) (q : Pool) (r : PortNo) : (s.setPool k q).intake r = s.intake r := rfl
@[simp] theorem State.handoff_setPool (s : State) (k : PoolId) (q : Pool) (r : PortNo) : (s.setPool k q).handoff r = s.handoff r := rfl
@[simp] theorem State.ctx_setPool (s : State) (k : PoolId) (q : Pool) (r : PortNo) : (s.setPool k q).ctx r = s.ctx r := rfl
@[simp] theorem State.port_leaveReady (s : State) (p : PortNo) (r : PortNo) : (s.leaveReady p).port r = s.port r := rfl
@[simp] theorem State.link_leaveReady (s : State) (p : PortNo) (r : PortNo) : (s.leaveReady p).link r = s.link r := rfl
@[simp] theorem State.intake_leaveReady (s : State) (p : PortNo) (r : PortNo) : (s.leaveReady p).intake r = s.intake r := rfl
@[simp] theorem State.handoff_leaveReady (s : State) (p : PortNo) (r : PortNo) : (s.leaveReady p).handoff r = s.handoff r := rfl
@[simp] theorem State.ctx_leaveReady (s : State) (p : PortNo) (r : PortNo) : (s.leaveReady p).ctx r = s.ctx r := rfl

theorem State.port_clearReservations (s : State) (n : ChunkName) (r : PortNo) :
    (s.clearReservations n).port r =
      if (s.handoff r).reservation = some n then
        { s.port r with handoff := { s.handoff r with reservation := none } }
      else s.port r := by
  simp only [State.port, State.clearReservations, State.handoff, Fin.getElem_fin, Vector.getElem_map]
  by_cases h : (s.ports[r.val]).handoff.reservation = some n <;> simp [h]

@[simp] theorem State.link_clearReservations (s : State) (n : ChunkName) (r : PortNo) :
    (s.clearReservations n).link r = s.link r := by
  simp only [State.link, State.port_clearReservations]; split <;> rfl

@[simp] theorem State.intake_clearReservations (s : State) (n : ChunkName) (r : PortNo) :
    (s.clearReservations n).intake r = s.intake r := by
  simp only [State.intake, State.port_clearReservations]; split <;> rfl

@[simp] theorem State.ctx_clearReservations (s : State) (n : ChunkName) (r : PortNo) :
    (s.clearReservations n).ctx r = s.ctx r := by
  simp only [State.ctx, State.port_clearReservations]; split <;> rfl

@[simp] theorem State.lastDamage_clearReservations (s : State) (n : ChunkName) (r : PortNo) :
    ((s.clearReservations n).port r).lastDamage = (s.port r).lastDamage := by
  simp only [State.port_clearReservations]; split <;> rfl

@[simp] theorem State.handoff_clearReservations (s : State) (n : ChunkName) (r : PortNo) :
    (s.clearReservations n).handoff r =
      if (s.handoff r).reservation = some n then { s.handoff r with reservation := none }
      else s.handoff r := by
  simp only [State.handoff, State.port_clearReservations]
  by_cases h : (s.port r).handoff.reservation = some n <;> simp [h]

@[simp] theorem State.link_updChunk (s : State) (n : ChunkName) (f : Chunk → Chunk) (r : PortNo) :
    (s.updChunk n f).link r = s.link r := by
  simp only [State.updChunk, State.link_clearReservations]; rfl

@[simp] theorem State.intake_updChunk (s : State) (n : ChunkName) (f : Chunk → Chunk) (r : PortNo) :
    (s.updChunk n f).intake r = s.intake r := by
  simp only [State.updChunk, State.intake_clearReservations]; rfl

@[simp] theorem State.ctx_updChunk (s : State) (n : ChunkName) (f : Chunk → Chunk) (r : PortNo) :
    (s.updChunk n f).ctx r = s.ctx r := by
  simp only [State.updChunk, State.ctx_clearReservations]; rfl

@[simp] theorem State.handoff_updChunk (s : State) (n : ChunkName) (f : Chunk → Chunk) (r : PortNo) :
    (s.updChunk n f).handoff r =
      if (s.handoff r).reservation = some n then { s.handoff r with reservation := none }
      else s.handoff r := by
  simp only [State.updChunk, State.handoff_clearReservations]; rfl

@[simp] theorem State.chunks_updChunk (s : State) (n : ChunkName) (f : Chunk → Chunk) :
    (s.updChunk n f).chunks = s.chunks.map (fun c => if c.name = n then f c else c) := rfl

@[simp] theorem State.chunks_freeChunk (s : State) (n : ChunkName) :
    (s.freeChunk n).chunks = s.chunks.filter (fun c => c.name ≠ n) := rfl

@[simp] theorem State.takes_updTake (s : State) (n : Nat) (f : Take → Take) :
    (s.updTake n f).takes = s.takes.map (fun e => if e.2.id = n then (e.1, f e.2) else e) := rfl

@[simp] theorem State.link_updLink (s : State) (p r : PortNo) (f : Link → Link) :
    (s.updLink p f).link r = if r = p then f (s.link p) else s.link r := by
  simp [State.updLink]

@[simp] theorem State.intake_updLink (s : State) (p r : PortNo) (f : Link → Link) :
    (s.updLink p f).intake r = s.intake r := by simp [State.updLink]

@[simp] theorem State.handoff_updLink (s : State) (p r : PortNo) (f : Link → Link) :
    (s.updLink p f).handoff r = s.handoff r := by simp [State.updLink]

@[simp] theorem State.ctx_updLink (s : State) (p r : PortNo) (f : Link → Link) :
    (s.updLink p f).ctx r = s.ctx r := by simp [State.updLink]

@[simp] theorem State.link_setBuf (s : State) (p r : PortNo) (k : Bool) (b : Buffer) :
    (s.setBuf p k b).link r = s.link r := by simp [State.setBuf]

@[simp] theorem State.handoff_setBuf (s : State) (p r : PortNo) (k : Bool) (b : Buffer) :
    (s.setBuf p k b).handoff r = s.handoff r := by simp [State.setBuf]

@[simp] theorem State.ctx_setBuf (s : State) (p r : PortNo) (k : Bool) (b : Buffer) :
    (s.setBuf p k b).ctx r = s.ctx r := by simp [State.setBuf]

@[simp] theorem State.intake_setBuf (s : State) (p r : PortNo) (k : Bool) (b : Buffer) :
    (s.setBuf p k b).intake r =
      if r = p then (if k then { s.intake p with buf1 := b } else { s.intake p with buf0 := b })
      else s.intake r := by simp [State.setBuf]

@[simp] theorem State.pool_setPool (s : State) (k j : PoolId) (q : Pool) :
    (s.setPool k q).pool j = if j = k then q else s.pool j := by
  cases k <;> cases j <;> rfl

/-- Where in a table a changed take stands: the same slot. -/
theorem State.take?_updTake (s : State) (n m : Nat) (f : Take → Take) (h : ∀ t, (f t).id = t.id) :
    (s.updTake n f).take? m = (s.take? m).map (fun t => if t.id = n then f t else t) := by
  simp only [State.take?, State.takes_updTake, List.find?_map, Option.map_map]
  have hp : ((fun e : Nat × Take => decide (e.2.id = m)) ∘
      fun e => if e.2.id = n then (e.1, f e.2) else e) = fun e => decide (e.2.id = m) := by
    funext e; simp only [Function.comp]; split <;> simp [h]
  rw [hp]
  cases s.takes.find? (fun e => decide (e.2.id = m)) with
  | none => rfl
  | some e => simp only [Option.map_some, Function.comp]; split <;> rfl

/-- A take found has the id asked for. -/
theorem State.take?_id {s : State} {n : Nat} {t : Take} (h : s.take? n = some t) : t.id = n := by
  simp only [State.take?, Option.map_eq_some_iff] at h
  obtain ⟨e, he, rfl⟩ := h
  simpa using List.find?_some he

/-- A changed take is found as changed. -/
theorem State.take?_updTake_self {s : State} {n : Nat} {t : Take} (h : s.take? n = some t)
    (f : Take → Take) (hf : ∀ t, (f t).id = t.id) : (s.updTake n f).take? n = some (f t) := by
  rw [State.take?_updTake _ _ _ _ hf, h]; simp [State.take?_id h]

/-- A change of another take leaves a take as it was. -/
theorem State.take?_updTake_ne (s : State) {n m : Nat} (hm : m ≠ n) (f : Take → Take)
    (hf : ∀ t, (f t).id = t.id) : (s.updTake n f).take? m = s.take? m := by
  rw [State.take?_updTake _ _ _ _ hf]
  cases h : s.take? m with
  | none => rfl
  | some t => simp [State.take?_id h, hm]

/-- A chunk found has the name asked for. -/
theorem State.chunk?_name {s : State} {n : ChunkName} {c : Chunk} (h : s.chunk? n = some c) :
    c.name = n := by simpa using List.find?_some h

/-- A changed chunk is found as changed, and every other as it was. -/
theorem State.chunk?_updChunk (s : State) (n m : ChunkName) (f : Chunk → Chunk)
    (h : ∀ c, (f c).name = c.name) :
    (s.updChunk n f).chunk? m = (s.chunk? m).map (fun c => if c.name = n then f c else c) := by
  simp only [State.chunk?, State.chunks_updChunk, List.find?_map]
  have hp : ((fun c : Chunk => decide (c.name = m)) ∘
      fun c => if c.name = n then f c else c) = fun c => decide (c.name = m) := by
    funext c; simp only [Function.comp]; split <;> simp [h]
  rw [hp]

end Sys2Proof.Machine
end

