-- ==== Sys2Proof/Laws/Frames.lean ====
section
/-!
SUPPORT. Sys2Proof/Laws/Frames.lean: sending a frame, a notice or a reply appends to what goes out and changes
nothing else; what a good frame does to the port record.
-/

namespace Sys2Proof.Machine

set_option Elab.async false

/-! ### What sending does -/

theorem State.emit_eq (s : State) (p : PortNo) (f : Frame) :
    s.emit p f = { s with out := s.out ++ s.sentTo p f } := by
  simp only [State.emit, State.sentTo]; split <;> simp

/-- An attached port takes frames. -/
theorem Link.takesFrames_of_isAttached {l : Link} (h : l.isAttached = true) : l.takesFrames = true := by
  simp only [Link.isAttached, Link.takesFrames, Bool.or_eq_true] at *; tauto

theorem State.notify_eq (s : State) (p : PortNo) (n : Notice) :
    s.notify p n = { s with out := s.out ++ s.noticeTo p n } := by
  simp only [State.notify, State.noticeTo, State.emit]
  by_cases h : (s.link p).isAttached = true
  · simp only [h, Link.takesFrames_of_isAttached h, Bool.true_and]
    by_cases m : (s.link p).masks n = true <;> simp [m]
  · simp [h]

theorem State.notifyEach_eq (s : State) (ps : List PortNo) (n : Notice) :
    s.notifyEach ps n = { s with out := s.out ++ s.noticesTo ps n } := by
  induction ps generalizing s with
  | nil => simp [State.notifyEach, State.noticesTo]
  | cons p ps ih =>
    have h : s.notifyEach (p :: ps) n = (s.notify p n).notifyEach ps n := rfl
    rw [h, ih, State.notify_eq]
    have e : ∀ t : List (PortNo × Frame), State.noticesTo { s with out := t } ps n = s.noticesTo ps n := by
      intro t; rfl
    simp only [e, List.append_assoc]; rfl

theorem State.notifyDesks_eq (s : State) (n : Notice) :
    s.notifyDesks n = { s with out := s.out ++ s.deskNotices n } := State.notifyEach_eq _ _ _

theorem State.reply_eq (s : State) (c : Cmd) (r : Result) (items : List Item) :
    s.reply c r items = { s with out := s.out ++ s.replyTo c r items } := State.emit_eq _ _ _

@[simp] theorem State.ok_eq (s : State) (c : Cmd) (items : List Item) : s.ok c items = s.reply c .ok items :=
  rfl

@[simp] theorem State.refuse_eq (s : State) (c : Cmd) (r : Reason) :
    s.refuse c r = s.reply c (.refused r none) [] := rfl

@[simp] theorem State.refuseUnmet_eq (s : State) (c : Cmd) (u : Unmet) :
    s.refuseUnmet c u = s.reply c (.refused .takeBusy (some u)) [] := rfl

@[simp] theorem State.replyBoth_eq (s : State) (c : Cmd) (b : Bool) (items : List Item) :
    s.replyBoth c b items = s.reply c (if b then .clamped else .ok) items := rfl

theorem State.replyClamped_eq (s : State) (c : Cmd) (b : Bool) (items : List Item) :
    s.replyClamped c b items = s.reply c (if b then .clamped else .ok) (if b then items else []) := by
  cases b <;> rfl

/-! ### What sending leaves alone -/

@[simp] theorem State.emit_pending (s : State) (p : PortNo) (f : Frame) : (s.emit p f).pending = s.pending := by rw [State.emit_eq]
@[simp] theorem State.emit_resetHeld (s : State) (p : PortNo) (f : Frame) : (s.emit p f).resetHeld = s.resetHeld := by rw [State.emit_eq]
@[simp] theorem State.emit_opState (s : State) (p : PortNo) (f : Frame) : (s.emit p f).opState = s.opState := by rw [State.emit_eq]
@[simp] theorem State.emit_clock (s : State) (p : PortNo) (f : Frame) : (s.emit p f).clock = s.clock := by rw [State.emit_eq]
@[simp] theorem State.emit_clearances (s : State) (p : PortNo) (f : Frame) : (s.emit p f).clearances = s.clearances := by rw [State.emit_eq]
@[simp] theorem State.emit_ports (s : State) (p : PortNo) (f : Frame) : (s.emit p f).ports = s.ports := by rw [State.emit_eq]
@[simp] theorem State.emit_takes (s : State) (p : PortNo) (f : Frame) : (s.emit p f).takes = s.takes := by rw [State.emit_eq]
@[simp] theorem State.emit_takeIdCounter (s : State) (p : PortNo) (f : Frame) : (s.emit p f).takeIdCounter = s.takeIdCounter := by rw [State.emit_eq]
@[simp] theorem State.emit_cueArrival (s : State) (p : PortNo) (f : Frame) : (s.emit p f).cueArrival = s.cueArrival := by rw [State.emit_eq]
@[simp] theorem State.emit_filter (s : State) (p : PortNo) (f : Frame) : (s.emit p f).filter = s.filter := by rw [State.emit_eq]
@[simp] theorem State.emit_defaultAction (s : State) (p : PortNo) (f : Frame) : (s.emit p f).defaultAction = s.defaultAction := by rw [State.emit_eq]
@[simp] theorem State.emit_pauseThreshold (s : State) (p : PortNo) (f : Frame) : (s.emit p f).pauseThreshold = s.pauseThreshold := by rw [State.emit_eq]
@[simp] theorem State.emit_directory (s : State) (p : PortNo) (f : Frame) : (s.emit p f).directory = s.directory := by rw [State.emit_eq]
@[simp] theorem State.emit_store (s : State) (p : PortNo) (f : Frame) : (s.emit p f).store = s.store := by rw [State.emit_eq]
@[simp] theorem State.emit_free (s : State) (p : PortNo) (f : Frame) : (s.emit p f).free = s.free := by rw [State.emit_eq]
@[simp] theorem State.emit_arbiter (s : State) (p : PortNo) (f : Frame) : (s.emit p f).arbiter = s.arbiter := by rw [State.emit_eq]
@[simp] theorem State.emit_lowFlag (s : State) (p : PortNo) (f : Frame) : (s.emit p f).lowFlag = s.lowFlag := by rw [State.emit_eq]
@[simp] theorem State.emit_watermark (s : State) (p : PortNo) (f : Frame) : (s.emit p f).watermark = s.watermark := by rw [State.emit_eq]
@[simp] theorem State.emit_deferral (s : State) (p : PortNo) (f : Frame) : (s.emit p f).deferral = s.deferral := by rw [State.emit_eq]
@[simp] theorem State.emit_arrivalSeq (s : State) (p : PortNo) (f : Frame) : (s.emit p f).arrivalSeq = s.arrivalSeq := by rw [State.emit_eq]
@[simp] theorem State.emit_chunks (s : State) (p : PortNo) (f : Frame) : (s.emit p f).chunks = s.chunks := by rw [State.emit_eq]
@[simp] theorem State.emit_pools (s : State) (p : PortNo) (f : Frame) : (s.emit p f).pools = s.pools := by rw [State.emit_eq]
@[simp] theorem State.emit_offerTimeout (s : State) (p : PortNo) (f : Frame) : (s.emit p f).offerTimeout = s.offerTimeout := by rw [State.emit_eq]
@[simp] theorem State.emit_grace (s : State) (p : PortNo) (f : Frame) : (s.emit p f).grace = s.grace := by rw [State.emit_eq]
@[simp] theorem State.emit_log (s : State) (p : PortNo) (f : Frame) : (s.emit p f).log = s.log := by rw [State.emit_eq]
@[simp] theorem State.emit_overrun (s : State) (p : PortNo) (f : Frame) : (s.emit p f).overrun = s.overrun := by rw [State.emit_eq]
@[simp] theorem State.emit_dropTime (s : State) (p : PortNo) (f : Frame) : (s.emit p f).dropTime = s.dropTime := by rw [State.emit_eq]
@[simp] theorem State.port_emit (s : State) (p : PortNo) (f : Frame) (w : PortNo) :
    (s.emit p f).port w = s.port w := by rw [State.emit_eq]; rfl
@[simp] theorem State.link_emit (s : State) (p : PortNo) (f : Frame) (w : PortNo) :
    (s.emit p f).link w = s.link w := by rw [State.emit_eq]; rfl
@[simp] theorem State.intake_emit (s : State) (p : PortNo) (f : Frame) (w : PortNo) :
    (s.emit p f).intake w = s.intake w := by rw [State.emit_eq]; rfl
@[simp] theorem State.handoff_emit (s : State) (p : PortNo) (f : Frame) (w : PortNo) :
    (s.emit p f).handoff w = s.handoff w := by rw [State.emit_eq]; rfl
@[simp] theorem State.ctx_emit (s : State) (p : PortNo) (f : Frame) (w : PortNo) :
    (s.emit p f).ctx w = s.ctx w := by rw [State.emit_eq]; rfl

@[simp] theorem State.notify_pending (s : State) (p : PortNo) (n : Notice) : (s.notify p n).pending = s.pending := by rw [State.notify_eq]
@[simp] theorem State.notify_resetHeld (s : State) (p : PortNo) (n : Notice) : (s.notify p n).resetHeld = s.resetHeld := by rw [State.notify_eq]
@[simp] theorem State.notify_opState (s : State) (p : PortNo) (n : Notice) : (s.notify p n).opState = s.opState := by rw [State.notify_eq]
@[simp] theorem State.notify_clock (s : State) (p : PortNo) (n : Notice) : (s.notify p n).clock = s.clock := by rw [State.notify_eq]
@[simp] theorem State.notify_clearances (s : State) (p : PortNo) (n : Notice) : (s.notify p n).clearances = s.clearances := by rw [State.notify_eq]
@[simp] theorem State.notify_ports (s : State) (p : PortNo) (n : Notice) : (s.notify p n).ports = s.ports := by rw [State.notify_eq]
@[simp] theorem State.notify_takes (s : State) (p : PortNo) (n : Notice) : (s.notify p n).takes = s.takes := by rw [State.notify_eq]
@[simp] theorem State.notify_takeIdCounter (s : State) (p : PortNo) (n : Notice) : (s.notify p n).takeIdCounter = s.takeIdCounter := by rw [State.notify_eq]
@[simp] theorem State.notify_cueArrival (s : State) (p : PortNo) (n : Notice) : (s.notify p n).cueArrival = s.cueArrival := by rw [State.notify_eq]
@[simp] theorem State.notify_filter (s : State) (p : PortNo) (n : Notice) : (s.notify p n).filter = s.filter := by rw [State.notify_eq]
@[simp] theorem State.notify_defaultAction (s : State) (p : PortNo) (n : Notice) : (s.notify p n).defaultAction = s.defaultAction := by rw [State.notify_eq]
@[simp] theorem State.notify_pauseThreshold (s : State) (p : PortNo) (n : Notice) : (s.notify p n).pauseThreshold = s.pauseThreshold := by rw [State.notify_eq]
@[simp] theorem State.notify_directory (s : State) (p : PortNo) (n : Notice) : (s.notify p n).directory = s.directory := by rw [State.notify_eq]
@[simp] theorem State.notify_store (s : State) (p : PortNo) (n : Notice) : (s.notify p n).store = s.store := by rw [State.notify_eq]
@[simp] theorem State.notify_free (s : State) (p : PortNo) (n : Notice) : (s.notify p n).free = s.free := by rw [State.notify_eq]
@[simp] theorem State.notify_arbiter (s : State) (p : PortNo) (n : Notice) : (s.notify p n).arbiter = s.arbiter := by rw [State.notify_eq]
@[simp] theorem State.notify_lowFlag (s : State) (p : PortNo) (n : Notice) : (s.notify p n).lowFlag = s.lowFlag := by rw [State.notify_eq]
@[simp] theorem State.notify_watermark (s : State) (p : PortNo) (n : Notice) : (s.notify p n).watermark = s.watermark := by rw [State.notify_eq]
@[simp] theorem State.notify_deferral (s : State) (p : PortNo) (n : Notice) : (s.notify p n).deferral = s.deferral := by rw [State.notify_eq]
@[simp] theorem State.notify_arrivalSeq (s : State) (p : PortNo) (n : Notice) : (s.notify p n).arrivalSeq = s.arrivalSeq := by rw [State.notify_eq]
@[simp] theorem State.notify_chunks (s : State) (p : PortNo) (n : Notice) : (s.notify p n).chunks = s.chunks := by rw [State.notify_eq]
@[simp] theorem State.notify_pools (s : State) (p : PortNo) (n : Notice) : (s.notify p n).pools = s.pools := by rw [State.notify_eq]
@[simp] theorem State.notify_offerTimeout (s : State) (p : PortNo) (n : Notice) : (s.notify p n).offerTimeout = s.offerTimeout := by rw [State.notify_eq]
@[simp] theorem State.notify_grace (s : State) (p : PortNo) (n : Notice) : (s.notify p n).grace = s.grace := by rw [State.notify_eq]
@[simp] theorem State.notify_log (s : State) (p : PortNo) (n : Notice) : (s.notify p n).log = s.log := by rw [State.notify_eq]
@[simp] theorem State.notify_overrun (s : State) (p : PortNo) (n : Notice) : (s.notify p n).overrun = s.overrun := by rw [State.notify_eq]
@[simp] theorem State.notify_dropTime (s : State) (p : PortNo) (n : Notice) : (s.notify p n).dropTime = s.dropTime := by rw [State.notify_eq]
@[simp] theorem State.port_notify (s : State) (p : PortNo) (n : Notice) (w : PortNo) :
    (s.notify p n).port w = s.port w := by rw [State.notify_eq]; rfl
@[simp] theorem State.link_notify (s : State) (p : PortNo) (n : Notice) (w : PortNo) :
    (s.notify p n).link w = s.link w := by rw [State.notify_eq]; rfl
@[simp] theorem State.intake_notify (s : State) (p : PortNo) (n : Notice) (w : PortNo) :
    (s.notify p n).intake w = s.intake w := by rw [State.notify_eq]; rfl
@[simp] theorem State.handoff_notify (s : State) (p : PortNo) (n : Notice) (w : PortNo) :
    (s.notify p n).handoff w = s.handoff w := by rw [State.notify_eq]; rfl
@[simp] theorem State.ctx_notify (s : State) (p : PortNo) (n : Notice) (w : PortNo) :
    (s.notify p n).ctx w = s.ctx w := by rw [State.notify_eq]; rfl

@[simp] theorem State.notifyEach_pending (s : State) (ps : List PortNo) (n : Notice) : (s.notifyEach ps n).pending = s.pending := by rw [State.notifyEach_eq]
@[simp] theorem State.notifyEach_resetHeld (s : State) (ps : List PortNo) (n : Notice) : (s.notifyEach ps n).resetHeld = s.resetHeld := by rw [State.notifyEach_eq]
@[simp] theorem State.notifyEach_opState (s : State) (ps : List PortNo) (n : Notice) : (s.notifyEach ps n).opState = s.opState := by rw [State.notifyEach_eq]
@[simp] theorem State.notifyEach_clock (s : State) (ps : List PortNo) (n : Notice) : (s.notifyEach ps n).clock = s.clock := by rw [State.notifyEach_eq]
@[simp] theorem State.notifyEach_clearances (s : State) (ps : List PortNo) (n : Notice) : (s.notifyEach ps n).clearances = s.clearances := by rw [State.notifyEach_eq]
@[simp] theorem State.notifyEach_ports (s : State) (ps : List PortNo) (n : Notice) : (s.notifyEach ps n).ports = s.ports := by rw [State.notifyEach_eq]
@[simp] theorem State.notifyEach_takes (s : State) (ps : List PortNo) (n : Notice) : (s.notifyEach ps n).takes = s.takes := by rw [State.notifyEach_eq]
@[simp] theorem State.notifyEach_takeIdCounter (s : State) (ps : List PortNo) (n : Notice) : (s.notifyEach ps n).takeIdCounter = s.takeIdCounter := by rw [State.notifyEach_eq]
@[simp] theorem State.notifyEach_cueArrival (s : State) (ps : List PortNo) (n : Notice) : (s.notifyEach ps n).cueArrival = s.cueArrival := by rw [State.notifyEach_eq]
@[simp] theorem State.notifyEach_filter (s : State) (ps : List PortNo) (n : Notice) : (s.notifyEach ps n).filter = s.filter := by rw [State.notifyEach_eq]
@[simp] theorem State.notifyEach_defaultAction (s : State) (ps : List PortNo) (n : Notice) : (s.notifyEach ps n).defaultAction = s.defaultAction := by rw [State.notifyEach_eq]
@[simp] theorem State.notifyEach_pauseThreshold (s : State) (ps : List PortNo) (n : Notice) : (s.notifyEach ps n).pauseThreshold = s.pauseThreshold := by rw [State.notifyEach_eq]
@[simp] theorem State.notifyEach_directory (s : State) (ps : List PortNo) (n : Notice) : (s.notifyEach ps n).directory = s.directory := by rw [State.notifyEach_eq]
@[simp] theorem State.notifyEach_store (s : State) (ps : List PortNo) (n : Notice) : (s.notifyEach ps n).store = s.store := by rw [State.notifyEach_eq]
@[simp] theorem State.notifyEach_free (s : State) (ps : List PortNo) (n : Notice) : (s.notifyEach ps n).free = s.free := by rw [State.notifyEach_eq]
@[simp] theorem State.notifyEach_arbiter (s : State) (ps : List PortNo) (n : Notice) : (s.notifyEach ps n).arbiter = s.arbiter := by rw [State.notifyEach_eq]
@[simp] theorem State.notifyEach_lowFlag (s : State) (ps : List PortNo) (n : Notice) : (s.notifyEach ps n).lowFlag = s.lowFlag := by rw [State.notifyEach_eq]
@[simp] theorem State.notifyEach_watermark (s : State) (ps : List PortNo) (n : Notice) : (s.notifyEach ps n).watermark = s.watermark := by rw [State.notifyEach_eq]
@[simp] theorem State.notifyEach_deferral (s : State) (ps : List PortNo) (n : Notice) : (s.notifyEach ps n).deferral = s.deferral := by rw [State.notifyEach_eq]
@[simp] theorem State.notifyEach_arrivalSeq (s : State) (ps : List PortNo) (n : Notice) : (s.notifyEach ps n).arrivalSeq = s.arrivalSeq := by rw [State.notifyEach_eq]
@[simp] theorem State.notifyEach_chunks (s : State) (ps : List PortNo) (n : Notice) : (s.notifyEach ps n).chunks = s.chunks := by rw [State.notifyEach_eq]
@[simp] theorem State.notifyEach_pools (s : State) (ps : List PortNo) (n : Notice) : (s.notifyEach ps n).pools = s.pools := by rw [State.notifyEach_eq]
@[simp] theorem State.notifyEach_offerTimeout (s : State) (ps : List PortNo) (n : Notice) : (s.notifyEach ps n).offerTimeout = s.offerTimeout := by rw [State.notifyEach_eq]
@[simp] theorem State.notifyEach_grace (s : State) (ps : List PortNo) (n : Notice) : (s.notifyEach ps n).grace = s.grace := by rw [State.notifyEach_eq]
@[simp] theorem State.notifyEach_log (s : State) (ps : List PortNo) (n : Notice) : (s.notifyEach ps n).log = s.log := by rw [State.notifyEach_eq]
@[simp] theorem State.notifyEach_overrun (s : State) (ps : List PortNo) (n : Notice) : (s.notifyEach ps n).overrun = s.overrun := by rw [State.notifyEach_eq]
@[simp] theorem State.notifyEach_dropTime (s : State) (ps : List PortNo) (n : Notice) : (s.notifyEach ps n).dropTime = s.dropTime := by rw [State.notifyEach_eq]
@[simp] theorem State.port_notifyEach (s : State) (ps : List PortNo) (n : Notice) (w : PortNo) :
    (s.notifyEach ps n).port w = s.port w := by rw [State.notifyEach_eq]; rfl
@[simp] theorem State.link_notifyEach (s : State) (ps : List PortNo) (n : Notice) (w : PortNo) :
    (s.notifyEach ps n).link w = s.link w := by rw [State.notifyEach_eq]; rfl
@[simp] theorem State.intake_notifyEach (s : State) (ps : List PortNo) (n : Notice) (w : PortNo) :
    (s.notifyEach ps n).intake w = s.intake w := by rw [State.notifyEach_eq]; rfl
@[simp] theorem State.handoff_notifyEach (s : State) (ps : List PortNo) (n : Notice) (w : PortNo) :
    (s.notifyEach ps n).handoff w = s.handoff w := by rw [State.notifyEach_eq]; rfl
@[simp] theorem State.ctx_notifyEach (s : State) (ps : List PortNo) (n : Notice) (w : PortNo) :
    (s.notifyEach ps n).ctx w = s.ctx w := by rw [State.notifyEach_eq]; rfl

@[simp] theorem State.notifyDesks_pending (s : State) (n : Notice) : (s.notifyDesks n).pending = s.pending := by rw [State.notifyDesks_eq]
@[simp] theorem State.notifyDesks_resetHeld (s : State) (n : Notice) : (s.notifyDesks n).resetHeld = s.resetHeld := by rw [State.notifyDesks_eq]
@[simp] theorem State.notifyDesks_opState (s : State) (n : Notice) : (s.notifyDesks n).opState = s.opState := by rw [State.notifyDesks_eq]
@[simp] theorem State.notifyDesks_clock (s : State) (n : Notice) : (s.notifyDesks n).clock = s.clock := by rw [State.notifyDesks_eq]
@[simp] theorem State.notifyDesks_clearances (s : State) (n : Notice) : (s.notifyDesks n).clearances = s.clearances := by rw [State.notifyDesks_eq]
@[simp] theorem State.notifyDesks_ports (s : State) (n : Notice) : (s.notifyDesks n).ports = s.ports := by rw [State.notifyDesks_eq]
@[simp] theorem State.notifyDesks_takes (s : State) (n : Notice) : (s.notifyDesks n).takes = s.takes := by rw [State.notifyDesks_eq]
@[simp] theorem State.notifyDesks_takeIdCounter (s : State) (n : Notice) : (s.notifyDesks n).takeIdCounter = s.takeIdCounter := by rw [State.notifyDesks_eq]
@[simp] theorem State.notifyDesks_cueArrival (s : State) (n : Notice) : (s.notifyDesks n).cueArrival = s.cueArrival := by rw [State.notifyDesks_eq]
@[simp] theorem State.notifyDesks_filter (s : State) (n : Notice) : (s.notifyDesks n).filter = s.filter := by rw [State.notifyDesks_eq]
@[simp] theorem State.notifyDesks_defaultAction (s : State) (n : Notice) : (s.notifyDesks n).defaultAction = s.defaultAction := by rw [State.notifyDesks_eq]
@[simp] theorem State.notifyDesks_pauseThreshold (s : State) (n : Notice) : (s.notifyDesks n).pauseThreshold = s.pauseThreshold := by rw [State.notifyDesks_eq]
@[simp] theorem State.notifyDesks_directory (s : State) (n : Notice) : (s.notifyDesks n).directory = s.directory := by rw [State.notifyDesks_eq]
@[simp] theorem State.notifyDesks_store (s : State) (n : Notice) : (s.notifyDesks n).store = s.store := by rw [State.notifyDesks_eq]
@[simp] theorem State.notifyDesks_free (s : State) (n : Notice) : (s.notifyDesks n).free = s.free := by rw [State.notifyDesks_eq]
@[simp] theorem State.notifyDesks_arbiter (s : State) (n : Notice) : (s.notifyDesks n).arbiter = s.arbiter := by rw [State.notifyDesks_eq]
@[simp] theorem State.notifyDesks_lowFlag (s : State) (n : Notice) : (s.notifyDesks n).lowFlag = s.lowFlag := by rw [State.notifyDesks_eq]
@[simp] theorem State.notifyDesks_watermark (s : State) (n : Notice) : (s.notifyDesks n).watermark = s.watermark := by rw [State.notifyDesks_eq]
@[simp] theorem State.notifyDesks_deferral (s : State) (n : Notice) : (s.notifyDesks n).deferral = s.deferral := by rw [State.notifyDesks_eq]
@[simp] theorem State.notifyDesks_arrivalSeq (s : State) (n : Notice) : (s.notifyDesks n).arrivalSeq = s.arrivalSeq := by rw [State.notifyDesks_eq]
@[simp] theorem State.notifyDesks_chunks (s : State) (n : Notice) : (s.notifyDesks n).chunks = s.chunks := by rw [State.notifyDesks_eq]
@[simp] theorem State.notifyDesks_pools (s : State) (n : Notice) : (s.notifyDesks n).pools = s.pools := by rw [State.notifyDesks_eq]
@[simp] theorem State.notifyDesks_offerTimeout (s : State) (n : Notice) : (s.notifyDesks n).offerTimeout = s.offerTimeout := by rw [State.notifyDesks_eq]
@[simp] theorem State.notifyDesks_grace (s : State) (n : Notice) : (s.notifyDesks n).grace = s.grace := by rw [State.notifyDesks_eq]
@[simp] theorem State.notifyDesks_log (s : State) (n : Notice) : (s.notifyDesks n).log = s.log := by rw [State.notifyDesks_eq]
@[simp] theorem State.notifyDesks_overrun (s : State) (n : Notice) : (s.notifyDesks n).overrun = s.overrun := by rw [State.notifyDesks_eq]
@[simp] theorem State.notifyDesks_dropTime (s : State) (n : Notice) : (s.notifyDesks n).dropTime = s.dropTime := by rw [State.notifyDesks_eq]
@[simp] theorem State.port_notifyDesks (s : State) (n : Notice) (w : PortNo) :
    (s.notifyDesks n).port w = s.port w := by rw [State.notifyDesks_eq]; rfl
@[simp] theorem State.link_notifyDesks (s : State) (n : Notice) (w : PortNo) :
    (s.notifyDesks n).link w = s.link w := by rw [State.notifyDesks_eq]; rfl
@[simp] theorem State.intake_notifyDesks (s : State) (n : Notice) (w : PortNo) :
    (s.notifyDesks n).intake w = s.intake w := by rw [State.notifyDesks_eq]; rfl
@[simp] theorem State.handoff_notifyDesks (s : State) (n : Notice) (w : PortNo) :
    (s.notifyDesks n).handoff w = s.handoff w := by rw [State.notifyDesks_eq]; rfl
@[simp] theorem State.ctx_notifyDesks (s : State) (n : Notice) (w : PortNo) :
    (s.notifyDesks n).ctx w = s.ctx w := by rw [State.notifyDesks_eq]; rfl

@[simp] theorem State.reply_pending (s : State) (c : Cmd) (r : Result) (items : List Item) : (s.reply c r items).pending = s.pending := by rw [State.reply_eq]
@[simp] theorem State.reply_resetHeld (s : State) (c : Cmd) (r : Result) (items : List Item) : (s.reply c r items).resetHeld = s.resetHeld := by rw [State.reply_eq]
@[simp] theorem State.reply_opState (s : State) (c : Cmd) (r : Result) (items : List Item) : (s.reply c r items).opState = s.opState := by rw [State.reply_eq]
@[simp] theorem State.reply_clock (s : State) (c : Cmd) (r : Result) (items : List Item) : (s.reply c r items).clock = s.clock := by rw [State.reply_eq]
@[simp] theorem State.reply_clearances (s : State) (c : Cmd) (r : Result) (items : List Item) : (s.reply c r items).clearances = s.clearances := by rw [State.reply_eq]
@[simp] theorem State.reply_ports (s : State) (c : Cmd) (r : Result) (items : List Item) : (s.reply c r items).ports = s.ports := by rw [State.reply_eq]
@[simp] theorem State.reply_takes (s : State) (c : Cmd) (r : Result) (items : List Item) : (s.reply c r items).takes = s.takes := by rw [State.reply_eq]
@[simp] theorem State.reply_takeIdCounter (s : State) (c : Cmd) (r : Result) (items : List Item) : (s.reply c r items).takeIdCounter = s.takeIdCounter := by rw [State.reply_eq]
@[simp] theorem State.reply_cueArrival (s : State) (c : Cmd) (r : Result) (items : List Item) : (s.reply c r items).cueArrival = s.cueArrival := by rw [State.reply_eq]
@[simp] theorem State.reply_filter (s : State) (c : Cmd) (r : Result) (items : List Item) : (s.reply c r items).filter = s.filter := by rw [State.reply_eq]
@[simp] theorem State.reply_defaultAction (s : State) (c : Cmd) (r : Result) (items : List Item) : (s.reply c r items).defaultAction = s.defaultAction := by rw [State.reply_eq]
@[simp] theorem State.reply_pauseThreshold (s : State) (c : Cmd) (r : Result) (items : List Item) : (s.reply c r items).pauseThreshold = s.pauseThreshold := by rw [State.reply_eq]
@[simp] theorem State.reply_directory (s : State) (c : Cmd) (r : Result) (items : List Item) : (s.reply c r items).directory = s.directory := by rw [State.reply_eq]
@[simp] theorem State.reply_store (s : State) (c : Cmd) (r : Result) (items : List Item) : (s.reply c r items).store = s.store := by rw [State.reply_eq]
@[simp] theorem State.reply_free (s : State) (c : Cmd) (r : Result) (items : List Item) : (s.reply c r items).free = s.free := by rw [State.reply_eq]
@[simp] theorem State.reply_arbiter (s : State) (c : Cmd) (r : Result) (items : List Item) : (s.reply c r items).arbiter = s.arbiter := by rw [State.reply_eq]
@[simp] theorem State.reply_lowFlag (s : State) (c : Cmd) (r : Result) (items : List Item) : (s.reply c r items).lowFlag = s.lowFlag := by rw [State.reply_eq]
@[simp] theorem State.reply_watermark (s : State) (c : Cmd) (r : Result) (items : List Item) : (s.reply c r items).watermark = s.watermark := by rw [State.reply_eq]
@[simp] theorem State.reply_deferral (s : State) (c : Cmd) (r : Result) (items : List Item) : (s.reply c r items).deferral = s.deferral := by rw [State.reply_eq]
@[simp] theorem State.reply_arrivalSeq (s : State) (c : Cmd) (r : Result) (items : List Item) : (s.reply c r items).arrivalSeq = s.arrivalSeq := by rw [State.reply_eq]
@[simp] theorem State.reply_chunks (s : State) (c : Cmd) (r : Result) (items : List Item) : (s.reply c r items).chunks = s.chunks := by rw [State.reply_eq]
@[simp] theorem State.reply_pools (s : State) (c : Cmd) (r : Result) (items : List Item) : (s.reply c r items).pools = s.pools := by rw [State.reply_eq]
@[simp] theorem State.reply_offerTimeout (s : State) (c : Cmd) (r : Result) (items : List Item) : (s.reply c r items).offerTimeout = s.offerTimeout := by rw [State.reply_eq]
@[simp] theorem State.reply_grace (s : State) (c : Cmd) (r : Result) (items : List Item) : (s.reply c r items).grace = s.grace := by rw [State.reply_eq]
@[simp] theorem State.reply_log (s : State) (c : Cmd) (r : Result) (items : List Item) : (s.reply c r items).log = s.log := by rw [State.reply_eq]
@[simp] theorem State.reply_overrun (s : State) (c : Cmd) (r : Result) (items : List Item) : (s.reply c r items).overrun = s.overrun := by rw [State.reply_eq]
@[simp] theorem State.reply_dropTime (s : State) (c : Cmd) (r : Result) (items : List Item) : (s.reply c r items).dropTime = s.dropTime := by rw [State.reply_eq]
@[simp] theorem State.port_reply (s : State) (c : Cmd) (r : Result) (items : List Item) (w : PortNo) :
    (s.reply c r items).port w = s.port w := by rw [State.reply_eq]; rfl
@[simp] theorem State.link_reply (s : State) (c : Cmd) (r : Result) (items : List Item) (w : PortNo) :
    (s.reply c r items).link w = s.link w := by rw [State.reply_eq]; rfl
@[simp] theorem State.intake_reply (s : State) (c : Cmd) (r : Result) (items : List Item) (w : PortNo) :
    (s.reply c r items).intake w = s.intake w := by rw [State.reply_eq]; rfl
@[simp] theorem State.handoff_reply (s : State) (c : Cmd) (r : Result) (items : List Item) (w : PortNo) :
    (s.reply c r items).handoff w = s.handoff w := by rw [State.reply_eq]; rfl
@[simp] theorem State.ctx_reply (s : State) (c : Cmd) (r : Result) (items : List Item) (w : PortNo) :
    (s.reply c r items).ctx w = s.ctx w := by rw [State.reply_eq]; rfl

theorem State.emit_out (s : State) (p : PortNo) (f : Frame) : (s.emit p f).out = s.out ++ s.sentTo p f := by
  rw [State.emit_eq]

theorem State.notify_out (s : State) (p : PortNo) (n : Notice) :
    (s.notify p n).out = s.out ++ s.noticeTo p n := by rw [State.notify_eq]

theorem State.notifyEach_out (s : State) (ps : List PortNo) (n : Notice) :
    (s.notifyEach ps n).out = s.out ++ s.noticesTo ps n := by rw [State.notifyEach_eq]

theorem State.notifyDesks_out (s : State) (n : Notice) :
    (s.notifyDesks n).out = s.out ++ s.deskNotices n := by rw [State.notifyDesks_eq]

theorem State.reply_out (s : State) (c : Cmd) (r : Result) (items : List Item) :
    (s.reply c r items).out = s.out ++ s.replyTo c r items := by rw [State.reply_eq]

/-! ### A good frame -/

/-- The port record once its error count has been tested (R146). -/
def Link.tested (l : Link) : Link := { l with warning := decide (96 ≤ l.errorCount) }

/-- The warning a test of the error count sends (R146). -/
def warningTo (p : PortNo) (l : Link) : List (PortNo × Frame) :=
  if 96 ≤ l.errorCount ∧ l.warning = false then
    if l.isAttached && !l.masks (.linkWarning l.errorCount) then
      [(p, .notice (.linkWarning l.errorCount))] else []
  else []

theorem State.setLink_self (s : State) (p : PortNo) : s.setLink p (s.link p) = s := by
  have h : s.ports.set p (s.port p) = s.ports := by
    simp only [State.port, Fin.getElem_fin]; exact Vector.set_getElem_self ..
  simp only [State.setLink, State.setPort, State.link, h]

theorem State.testErrors_eq (s : State) (p : PortNo) :
    s.testErrors p = { s.setLink p (s.link p).tested with out := s.out ++ warningTo p (s.link p) } := by
  simp only [State.testErrors]
  by_cases h : 96 ≤ (s.link p).errorCount <;> by_cases w : (s.link p).warning = true
  · have e : (s.link p).tested = s.link p := by simp only [Link.tested, h, decide_true, ← w]
    rw [e, State.setLink_self]; simp [warningTo, h, w]
  · have e : (s.link p).tested = { s.link p with warning := true } := by simp only [Link.tested, h, decide_true]
    simp only [h, w, e, decide_true, Bool.not_false, Bool.and_self, if_true, State.notify_eq,
      State.noticeTo, warningTo, State.link_setLink, and_self]
    simp [Link.masks, Link.isAttached]
  · have h' : (s.link p).errorCount < 96 := by omega
    have e : (s.link p).tested = { s.link p with warning := false } := by simp only [Link.tested, h, decide_false]
    simp only [h, h', w, e, warningTo, false_and, if_false, List.append_nil, decide_false, decide_true,
      Bool.false_and, Bool.and_self, if_true]
    rfl
  · have w' : (s.link p).warning = false := by simpa using w
    have e : (s.link p).tested = s.link p := by
      simp only [Link.tested, h, decide_false]; rw [← w']
    rw [e, State.setLink_self]; simp [warningTo, h, w]

/-- A good frame changes the record of its port, and sends at most a warning (R145, R146, R151). -/
theorem State.goodFrame_eq (s : State) (p : PortNo) :
    s.goodFrame p = { s.setLink p (s.link p).good.tested with
      out := s.out ++ warningTo p (s.link p).good } := by
  rw [State.goodFrame, State.testErrors_eq]
  have e : (s.updLink p Link.good).link p = (s.link p).good := by simp
  rw [e]
  have h : (s.updLink p Link.good).setLink p (s.link p).good.tested = s.setLink p (s.link p).good.tested := by
    simp only [State.updLink, State.setLink, State.setPort, State.port]
    simp
  rw [h]; rfl


@[simp] theorem State.testErrors_pending (s : State) (p : PortNo) : (s.testErrors p).pending = s.pending := by rw [State.testErrors_eq]; rfl
@[simp] theorem State.testErrors_resetHeld (s : State) (p : PortNo) : (s.testErrors p).resetHeld = s.resetHeld := by rw [State.testErrors_eq]; rfl
@[simp] theorem State.testErrors_opState (s : State) (p : PortNo) : (s.testErrors p).opState = s.opState := by rw [State.testErrors_eq]; rfl
@[simp] theorem State.testErrors_clock (s : State) (p : PortNo) : (s.testErrors p).clock = s.clock := by rw [State.testErrors_eq]; rfl
@[simp] theorem State.testErrors_clearances (s : State) (p : PortNo) : (s.testErrors p).clearances = s.clearances := by rw [State.testErrors_eq]; rfl
@[simp] theorem State.testErrors_takes (s : State) (p : PortNo) : (s.testErrors p).takes = s.takes := by rw [State.testErrors_eq]; rfl
@[simp] theorem State.testErrors_takeIdCounter (s : State) (p : PortNo) : (s.testErrors p).takeIdCounter = s.takeIdCounter := by rw [State.testErrors_eq]; rfl
@[simp] theorem State.testErrors_cueArrival (s : State) (p : PortNo) : (s.testErrors p).cueArrival = s.cueArrival := by rw [State.testErrors_eq]; rfl
@[simp] theorem State.testErrors_filter (s : State) (p : PortNo) : (s.testErrors p).filter = s.filter := by rw [State.testErrors_eq]; rfl
@[simp] theorem State.testErrors_defaultAction (s : State) (p : PortNo) : (s.testErrors p).defaultAction = s.defaultAction := by rw [State.testErrors_eq]; rfl
@[simp] theorem State.testErrors_pauseThreshold (s : State) (p : PortNo) : (s.testErrors p).pauseThreshold = s.pauseThreshold := by rw [State.testErrors_eq]; rfl
@[simp] theorem State.testErrors_directory (s : State) (p : PortNo) : (s.testErrors p).directory = s.directory := by rw [State.testErrors_eq]; rfl
@[simp] theorem State.testErrors_store (s : State) (p : PortNo) : (s.testErrors p).store = s.store := by rw [State.testErrors_eq]; rfl
@[simp] theorem State.testErrors_free (s : State) (p : PortNo) : (s.testErrors p).free = s.free := by rw [State.testErrors_eq]; rfl
@[simp] theorem State.testErrors_arbiter (s : State) (p : PortNo) : (s.testErrors p).arbiter = s.arbiter := by rw [State.testErrors_eq]; rfl
@[simp] theorem State.testErrors_lowFlag (s : State) (p : PortNo) : (s.testErrors p).lowFlag = s.lowFlag := by rw [State.testErrors_eq]; rfl
@[simp] theorem State.testErrors_watermark (s : State) (p : PortNo) : (s.testErrors p).watermark = s.watermark := by rw [State.testErrors_eq]; rfl
@[simp] theorem State.testErrors_deferral (s : State) (p : PortNo) : (s.testErrors p).deferral = s.deferral := by rw [State.testErrors_eq]; rfl
@[simp] theorem State.testErrors_arrivalSeq (s : State) (p : PortNo) : (s.testErrors p).arrivalSeq = s.arrivalSeq := by rw [State.testErrors_eq]; rfl
@[simp] theorem State.testErrors_chunks (s : State) (p : PortNo) : (s.testErrors p).chunks = s.chunks := by rw [State.testErrors_eq]; rfl
@[simp] theorem State.testErrors_pools (s : State) (p : PortNo) : (s.testErrors p).pools = s.pools := by rw [State.testErrors_eq]; rfl
@[simp] theorem State.testErrors_offerTimeout (s : State) (p : PortNo) : (s.testErrors p).offerTimeout = s.offerTimeout := by rw [State.testErrors_eq]; rfl
@[simp] theorem State.testErrors_grace (s : State) (p : PortNo) : (s.testErrors p).grace = s.grace := by rw [State.testErrors_eq]; rfl
@[simp] theorem State.testErrors_log (s : State) (p : PortNo) : (s.testErrors p).log = s.log := by rw [State.testErrors_eq]; rfl
@[simp] theorem State.testErrors_overrun (s : State) (p : PortNo) : (s.testErrors p).overrun = s.overrun := by rw [State.testErrors_eq]; rfl
@[simp] theorem State.testErrors_dropTime (s : State) (p : PortNo) : (s.testErrors p).dropTime = s.dropTime := by rw [State.testErrors_eq]; rfl
@[simp] theorem State.intake_testErrors (s : State) (p r : PortNo) : (s.testErrors p).intake r = s.intake r := by
  rw [State.testErrors_eq]; exact State.intake_setLink ..
@[simp] theorem State.handoff_testErrors (s : State) (p r : PortNo) : (s.testErrors p).handoff r = s.handoff r := by
  rw [State.testErrors_eq]; exact State.handoff_setLink ..
@[simp] theorem State.ctx_testErrors (s : State) (p r : PortNo) : (s.testErrors p).ctx r = s.ctx r := by
  rw [State.testErrors_eq]; exact State.ctx_setLink ..

@[simp] theorem State.goodFrame_pending (s : State) (p : PortNo) : (s.goodFrame p).pending = s.pending := by rw [State.goodFrame_eq]; rfl
@[simp] theorem State.goodFrame_resetHeld (s : State) (p : PortNo) : (s.goodFrame p).resetHeld = s.resetHeld := by rw [State.goodFrame_eq]; rfl
@[simp] theorem State.goodFrame_opState (s : State) (p : PortNo) : (s.goodFrame p).opState = s.opState := by rw [State.goodFrame_eq]; rfl
@[simp] theorem State.goodFrame_clock (s : State) (p : PortNo) : (s.goodFrame p).clock = s.clock := by rw [State.goodFrame_eq]; rfl
@[simp] theorem State.goodFrame_clearances (s : State) (p : PortNo) : (s.goodFrame p).clearances = s.clearances := by rw [State.goodFrame_eq]; rfl
@[simp] theorem State.goodFrame_takes (s : State) (p : PortNo) : (s.goodFrame p).takes = s.takes := by rw [State.goodFrame_eq]; rfl
@[simp] theorem State.goodFrame_takeIdCounter (s : State) (p : PortNo) : (s.goodFrame p).takeIdCounter = s.takeIdCounter := by rw [State.goodFrame_eq]; rfl
@[simp] theorem State.goodFrame_cueArrival (s : State) (p : PortNo) : (s.goodFrame p).cueArrival = s.cueArrival := by rw [State.goodFrame_eq]; rfl
@[simp] theorem State.goodFrame_filter (s : State) (p : PortNo) : (s.goodFrame p).filter = s.filter := by rw [State.goodFrame_eq]; rfl
@[simp] theorem State.goodFrame_defaultAction (s : State) (p : PortNo) : (s.goodFrame p).defaultAction = s.defaultAction := by rw [State.goodFrame_eq]; rfl
@[simp] theorem State.goodFrame_pauseThreshold (s : State) (p : PortNo) : (s.goodFrame p).pauseThreshold = s.pauseThreshold := by rw [State.goodFrame_eq]; rfl
@[simp] theorem State.goodFrame_directory (s : State) (p : PortNo) : (s.goodFrame p).directory = s.directory := by rw [State.goodFrame_eq]; rfl
@[simp] theorem State.goodFrame_store (s : State) (p : PortNo) : (s.goodFrame p).store = s.store := by rw [State.goodFrame_eq]; rfl
@[simp] theorem State.goodFrame_free (s : State) (p : PortNo) : (s.goodFrame p).free = s.free := by rw [State.goodFrame_eq]; rfl
@[simp] theorem State.goodFrame_arbiter (s : State) (p : PortNo) : (s.goodFrame p).arbiter = s.arbiter := by rw [State.goodFrame_eq]; rfl
@[simp] theorem State.goodFrame_lowFlag (s : State) (p : PortNo) : (s.goodFrame p).lowFlag = s.lowFlag := by rw [State.goodFrame_eq]; rfl
@[simp] theorem State.goodFrame_watermark (s : State) (p : PortNo) : (s.goodFrame p).watermark = s.watermark := by rw [State.goodFrame_eq]; rfl
@[simp] theorem State.goodFrame_deferral (s : State) (p : PortNo) : (s.goodFrame p).deferral = s.deferral := by rw [State.goodFrame_eq]; rfl
@[simp] theorem State.goodFrame_arrivalSeq (s : State) (p : PortNo) : (s.goodFrame p).arrivalSeq = s.arrivalSeq := by rw [State.goodFrame_eq]; rfl
@[simp] theorem State.goodFrame_chunks (s : State) (p : PortNo) : (s.goodFrame p).chunks = s.chunks := by rw [State.goodFrame_eq]; rfl
@[simp] theorem State.goodFrame_pools (s : State) (p : PortNo) : (s.goodFrame p).pools = s.pools := by rw [State.goodFrame_eq]; rfl
@[simp] theorem State.goodFrame_offerTimeout (s : State) (p : PortNo) : (s.goodFrame p).offerTimeout = s.offerTimeout := by rw [State.goodFrame_eq]; rfl
@[simp] theorem State.goodFrame_grace (s : State) (p : PortNo) : (s.goodFrame p).grace = s.grace := by rw [State.goodFrame_eq]; rfl
@[simp] theorem State.goodFrame_log (s : State) (p : PortNo) : (s.goodFrame p).log = s.log := by rw [State.goodFrame_eq]; rfl
@[simp] theorem State.goodFrame_overrun (s : State) (p : PortNo) : (s.goodFrame p).overrun = s.overrun := by rw [State.goodFrame_eq]; rfl
@[simp] theorem State.goodFrame_dropTime (s : State) (p : PortNo) : (s.goodFrame p).dropTime = s.dropTime := by rw [State.goodFrame_eq]; rfl
@[simp] theorem State.intake_goodFrame (s : State) (p r : PortNo) : (s.goodFrame p).intake r = s.intake r := by
  rw [State.goodFrame_eq]; exact State.intake_setLink ..
@[simp] theorem State.handoff_goodFrame (s : State) (p r : PortNo) : (s.goodFrame p).handoff r = s.handoff r := by
  rw [State.goodFrame_eq]; exact State.handoff_setLink ..
@[simp] theorem State.ctx_goodFrame (s : State) (p r : PortNo) : (s.goodFrame p).ctx r = s.ctx r := by
  rw [State.goodFrame_eq]; exact State.ctx_setLink ..

@[simp] theorem State.link_testErrors (s : State) (p r : PortNo) :
    (s.testErrors p).link r = if r = p then (s.link p).tested else s.link r := by
  rw [State.testErrors_eq]; exact State.link_setLink ..

@[simp] theorem State.link_goodFrame (s : State) (p r : PortNo) :
    (s.goodFrame p).link r = if r = p then (s.link p).good.tested else s.link r := by
  rw [State.goodFrame_eq]; exact State.link_setLink ..

@[simp] theorem Link.isAttached_tested (l : Link) : l.tested.isAttached = l.isAttached := rfl
@[simp] theorem Link.role_tested (l : Link) : l.tested.role = l.role := rfl
@[simp] theorem Link.state_tested (l : Link) : l.tested.state = l.state := rfl
@[simp] theorem Link.station_tested (l : Link) : l.tested.station = l.station := rfl
@[simp] theorem Link.clearance_tested (l : Link) : l.tested.clearance = l.clearance := rfl
@[simp] theorem Link.mask_tested (l : Link) : l.tested.mask = l.mask := rfl
@[simp] theorem Link.takesFrames_tested (l : Link) : l.tested.takesFrames = l.takesFrames := rfl

@[simp] theorem Link.isAttached_good (l : Link) : l.good.isAttached = l.isAttached := by
  cases l with | mk st => cases st <;> rfl
@[simp] theorem Link.role_good (l : Link) : l.good.role = l.role := by
  simp only [Link.good]; split <;> rfl
@[simp] theorem Link.station_good (l : Link) : l.good.station = l.station := by
  simp only [Link.good]; split <;> rfl
@[simp] theorem Link.clearance_good (l : Link) : l.good.clearance = l.clearance := by
  simp only [Link.good]; split <;> rfl
@[simp] theorem Link.mask_good (l : Link) : l.good.mask = l.mask := by
  simp only [Link.good]; split <;> rfl
@[simp] theorem Link.takesFrames_good (l : Link) : l.good.takesFrames = l.takesFrames := by
  cases l with | mk st => cases st <;> rfl

/-! ### How a command reaches its meaning -/

/-- A command on an attached port reaches its owner after the good frame (R155). -/
theorem State.onCommand_attached {s : State} {c : Cmd} (h : (s.link c.port).isAttached = true)
    (f : Bool → State → State) :
    s.onCommand c f = f ((s.link c.port).state = .quiet) (s.goodFrame c.port) := by
  simp [State.onCommand, Link.takesFrames_of_isAttached h, h]

/-- A command of the port's role reaches its owner (R155). -/
theorem State.asRole_hears {s : State} {c : Cmd} {r : Role} (h : s.hears c.port r) (f : State → State) :
    s.asRole c r f = f (s.goodFrame c.port) := by
  simp [State.asRole, State.onCommand_attached h.2.1, h.2.2]

/-- A command on a port of another role is refused with WRONG_ROLE (R155). -/
theorem State.asRole_other {s : State} {c : Cmd} {r : Role} (h : (s.link c.port).isAttached = true)
    (hr : (s.link c.port).role ≠ some r) (f : State → State) :
    s.asRole c r f = (s.goodFrame c.port).refuse c .wrongRole := by
  simp [State.asRole, State.onCommand_attached h, hr]

theorem State.running_eq {s : State} (h : s.resetHeld = false) (f : State → State) :
    s.running f = .next (f s) := by simp [State.running, h]

end Sys2Proof.Machine
end

