-- ==== Sys2Proof/Laws/Table.lean ====
section
/-!
SUPPORT. Sys2Proof/Laws/Table.lean: the sparse tables keep their canonical form, a read after a write gives what
was written and every other key as it was; the free list keeps its order and its count.
-/

namespace Sys2Proof.Machine

set_option Elab.async false

namespace TableLaws

variable {α : Type}

/-! ### Canonical form -/

/-- The keys of a written table: those it had and the key written. -/
theorem mem_put {t : Table α} {k : Nat} {v : α} {e : Nat × α} (h : e ∈ t.put k v) :
    e = (k, v) ∨ e ∈ t := by
  induction t with
  | nil => simpa [Table.put] using h
  | cons d t ih =>
    obtain ⟨j, w⟩ := d
    simp only [Table.put] at h
    split at h
    · simpa using h
    · split at h
      · rename_i hk; subst hk
        rcases List.mem_cons.1 h with h | h
        · exact .inl h
        · exact .inr (List.mem_cons_of_mem _ h)
      · rcases List.mem_cons.1 h with h | h
        · exact .inr (h ▸ List.mem_cons_self ..)
        · rcases ih h with h | h
          · exact .inl h
          · exact .inr (List.mem_cons_of_mem _ h)

theorem put_wf {t : Table α} (h : t.wf) (k : Nat) (v : α) : (t.put k v).wf := by
  induction t with
  | nil => simp [Table.put, Table.wf]
  | cons d t ih =>
    obtain ⟨j, w⟩ := d
    have ht := List.pairwise_cons.1 h
    simp only [Table.put]
    split
    · rename_i hk
      refine List.pairwise_cons.2 ⟨fun e he => ?_, h⟩
      rcases List.mem_cons.1 he with rfl | he
      · exact hk
      · exact lt_trans hk (ht.1 e he)
    · split
      · rename_i hk; subst hk; exact List.pairwise_cons.2 ⟨ht.1, ht.2⟩
      · refine List.pairwise_cons.2 ⟨fun e he => ?_, ih ht.2⟩
        rcases mem_put he with rfl | he
        · change j < k; omega
        · exact ht.1 e he

/-- What is left after a removal was there before. -/
theorem mem_drop {t : Table α} {k : Nat} {e : Nat × α} (h : e ∈ Table.drop t k) : e ∈ t := by
  induction t with
  | nil => simp [Table.drop] at h
  | cons d t ih =>
    obtain ⟨j, w⟩ := d
    simp only [Table.drop] at h
    split at h
    · exact List.mem_cons_of_mem _ h
    · rcases List.mem_cons.1 h with h | h
      · exact h ▸ List.mem_cons_self ..
      · exact List.mem_cons_of_mem _ (ih h)

theorem drop_wf {t : Table α} (h : t.wf) (k : Nat) : Table.wf (Table.drop t k) := by
  induction t with
  | nil => simp [Table.drop, Table.wf]
  | cons d t ih =>
    obtain ⟨j, w⟩ := d
    have ht := List.pairwise_cons.1 h
    simp only [Table.drop]
    split
    · exact ht.2
    · exact List.pairwise_cons.2 ⟨fun e he => ht.1 e (mem_drop he), ih ht.2⟩

/-- A table keeps its form under any change of values alone. -/
theorem map_wf {t : Table α} (h : t.wf) (f : Nat × α → Nat × α) (hf : ∀ e, (f e).1 = e.1) :
    Table.wf (t.map f) := by
  simp only [Table.wf, List.pairwise_map, hf]; exact h

theorem change_wf {t : Table α} (h : t.wf) (k : Nat) (f : α → α) : (t.change k f).wf :=
  map_wf h _ (fun e => by split <;> rfl)

theorem filter_wf {t : Table α} (h : t.wf) (q : Nat × α → Bool) : Table.wf (t.filter q) :=
  List.Pairwise.filter q h

/-! ### Sizes -/

theorem length_drop_le (t : Table α) (k : Nat) : (Table.drop t k).length ≤ t.length := by
  induction t with
  | nil => simp [Table.drop]
  | cons d t ih => simp only [Table.drop]; split <;> simp <;> omega

theorem length_put_le (t : Table α) (k : Nat) (v : α) : (t.put k v).length ≤ t.length + 1 := by
  induction t with
  | nil => simp [Table.put]
  | cons d t ih =>
    simp only [Table.put]; split
    · simp
    · split <;> simp <;> omega

/-! ### Read after write -/

/-- In canonical form no key comes before the head's. -/
theorem find_none_of_lt {t : Table α} {k : Nat} (h : ∀ e ∈ t, k < e.1) : Table.find t k = none := by
  induction t with
  | nil => rfl
  | cons d t ih =>
    have hk := h d (List.mem_cons_self ..)
    simp only [Table.find]
    rw [if_neg (by omega)]
    exact ih (fun e he => h e (List.mem_cons_of_mem _ he))

theorem find_put_self {t : Table α} (k : Nat) (v : α) : Table.find (t.put k v) k = some v := by
  induction t with
  | nil => simp [Table.put, Table.find]
  | cons d t ih =>
    obtain ⟨j, w⟩ := d
    simp only [Table.put]
    split
    · simp [Table.find]
    · split
      · simp [Table.find]
      · rename_i h1 h2; simp only [Table.find]; rw [if_neg (by omega)]; exact ih

theorem find_put_ne {t : Table α} {k j : Nat} (h : j ≠ k) (v : α) :
    Table.find (t.put k v) j = Table.find t j := by
  induction t with
  | nil => simp [Table.put, Table.find, h.symm]
  | cons d t ih =>
    obtain ⟨i, w⟩ := d
    simp only [Table.put]
    split
    · simp [Table.find, h.symm]
    · split
      · rename_i hk; subst hk; simp [Table.find, h.symm]
      · simp only [Table.find]; split <;> simp_all

theorem find_drop_self {t : Table α} (h : t.wf) (k : Nat) :
    Table.find (Table.drop t k) k = none := by
  induction t with
  | nil => rfl
  | cons d t ih =>
    obtain ⟨j, w⟩ := d
    have ht := List.pairwise_cons.1 h
    simp only [Table.drop]
    split
    · rename_i hk; subst hk; exact find_none_of_lt ht.1
    · rename_i hk; simp only [Table.find]; rw [if_neg hk]; exact ih ht.2

theorem find_drop_ne {t : Table α} {k j : Nat} (h : j ≠ k) :
    Table.find (Table.drop t k) j = Table.find t j := by
  induction t with
  | nil => rfl
  | cons d t ih =>
    obtain ⟨i, w⟩ := d
    simp only [Table.drop]
    split
    · rename_i hk; subst hk; simp [Table.find, h.symm]
    · simp only [Table.find]; split <;> simp_all

theorem find_change (t : Table α) (k j : Nat) (f : α → α) :
    Table.find (t.change k f) j = (Table.find t j).map (fun v => if j = k then f v else v) := by
  induction t with
  | nil => rfl
  | cons d t ih =>
    obtain ⟨i, w⟩ := d
    simp only [Table.change, List.map_cons] at ih ⊢
    by_cases hi : i = k <;> by_cases hj : i = j <;> simp_all [Table.find]

/-- A listed key reads as its entry. -/
theorem find_of_mem {t : Table α} (h : t.wf) {k : Nat} {v : α} (hm : (k, v) ∈ t) :
    Table.find t k = some v := by
  induction t with
  | nil => simp at hm
  | cons d t ih =>
    obtain ⟨j, w⟩ := d
    have ht := List.pairwise_cons.1 h
    simp only [Table.find]
    rcases List.mem_cons.1 hm with hm | hm
    · simp_all
    · have := ht.1 _ hm
      rw [if_neg (by simp at this; omega)]
      exact ih ht.2 hm

/-- What reads as an entry is listed. -/
theorem mem_of_find {t : Table α} {k : Nat} {v : α} (h : Table.find t k = some v) : (k, v) ∈ t := by
  induction t with
  | nil => simp [Table.find] at h
  | cons d t ih =>
    obtain ⟨j, w⟩ := d
    simp only [Table.find] at h
    split at h
    · simp_all
    · exact List.mem_cons_of_mem _ (ih h)

/-! ### Free numbers -/

/-- A number found free is not used and lies in the range searched, and every earlier one is used. -/
theorem firstFree_spec {used : List Nat} {fuel n k : Nat} (h : firstFree used fuel n = some k) :
    k ∉ used ∧ n ≤ k ∧ k < n + fuel ∧ ∀ j, n ≤ j → j < k → j ∈ used := by
  induction fuel generalizing n with
  | zero => simp [firstFree] at h
  | succ fuel ih =>
    simp only [firstFree] at h
    split at h
    · rename_i hu
      obtain ⟨h1, h2, h3, h4⟩ := ih h
      refine ⟨h1, by omega, by omega, fun j hj hk => ?_⟩
      rcases Nat.eq_or_lt_of_le hj with rfl | hj
      · simpa using hu
      · exact h4 j hj hk
    · rename_i hu
      obtain rfl : n = k := by simpa using h
      exact ⟨by simpa using hu, le_refl _, by omega, fun j hj hk => by omega⟩

/-- No number is free only when the whole range searched is used. -/
theorem firstFree_none {used : List Nat} {fuel n : Nat} (h : firstFree used fuel n = none) :
    ∀ j, n ≤ j → j < n + fuel → j ∈ used := by
  induction fuel generalizing n with
  | zero => intro j h1 h2; omega
  | succ fuel ih =>
    simp only [firstFree] at h
    split at h
    · rename_i hu
      intro j h1 h2
      rcases Nat.eq_or_lt_of_le h1 with rfl | h1
      · simpa using hu
      · exact ih h j h1 (by omega)
    · simp at h

/-! ### The free list -/

theorem freeList_count (f : FreeList) : f.count = f.toList.length := by
  simp [FreeList.count, FreeList.toList]

/-- Allocation takes the head of the list (R45). -/
theorem freeList_pop {f g : FreeList} {b : Nat} (h : f.pop = some (b, g)) :
    f.toList = b :: g.toList := by
  simp only [FreeList.pop] at h
  split at h
  · rename_i hf
    simp only [Option.some.injEq, Prod.mk.injEq] at h
    obtain ⟨rfl, rfl⟩ := h
    simp only [FreeList.toList]
    have : Config.blocks - f.fresh = (Config.blocks - (f.fresh + 1)) + 1 := by omega
    rw [this, List.range'_succ]; rfl
  · rename_i hf
    have h0 : Config.blocks - f.fresh = 0 := by omega
    split at h
    · simp at h
    · rename_i b' rest hr
      simp only [Option.some.injEq, Prod.mk.injEq] at h
      obtain ⟨rfl, rfl⟩ := h
      simp [FreeList.toList, h0, hr]

/-- No allocation only from an empty list (R45). -/
theorem freeList_pop_none {f : FreeList} : f.pop = none ↔ f.toList = [] := by
  simp only [FreeList.pop, FreeList.toList]
  split
  · rename_i hf
    have : Config.blocks - f.fresh = (Config.blocks - (f.fresh + 1)) + 1 := by omega
    simp only [reduceCtorEq, false_iff, this, List.range'_succ]; simp
  · rename_i hf
    have h0 : Config.blocks - f.fresh = 0 := by omega
    split <;> simp_all

/-- A returned block joins the tail (R56). -/
theorem freeList_push (f : FreeList) (b : Nat) : (f.push b).toList = f.toList ++ [b] := by
  simp [FreeList.push, FreeList.toList]

theorem freeList_pop_count {f g : FreeList} {b : Nat} (h : f.pop = some (b, g)) :
    f.count = g.count + 1 := by
  rw [freeList_count, freeList_count, freeList_pop h]; rfl

theorem freeList_push_count (f : FreeList) (b : Nat) : (f.push b).count = f.count + 1 := by
  simp [freeList_count, freeList_push]

end TableLaws

end Sys2Proof.Machine
end

