-- ==== Sys2Proof/Laws/Touch.lean ====
section
/-!
SUPPORT. Sys2Proof/Laws/Touch.lean: the parts of the state an operation may touch.  `Touches ps s t` says that
going from `s` to `t` every part outside `ps` is as it was; one such lemma per operation replaces unfolding it.
-/

namespace Sys2Proof.Machine

set_option Elab.async false

theorem Part.same_refl (s : State) (x : Part) : x.same s s := by
  cases x <;> simp only [Part.same, imp_self, implies_true]
  · exact ⟨[], by simp⟩
  · exact ⟨[], by simp⟩
  · exact fun p c h => .inr ⟨c, h, rfl⟩

theorem Part.same_trans {s t u : State} {x : Part} (h : x.same s t) (k : x.same t u) : x.same s u := by
  cases x <;> simp only [Part.same] at * <;> first
    | exact k.trans h
    | exact fun p => (k p).trans (h p)
    | exact k ∘ h
    | skip
  · obtain ⟨l, hl⟩ := h; obtain ⟨m, hm⟩ := k
    exact ⟨l ++ m, by rw [hm, hl, List.append_assoc]⟩
  · obtain ⟨l, hl, fl⟩ := h; obtain ⟨m, hm, fm⟩ := k
    refine ⟨l ++ m, by rw [hm, hl, List.append_assoc], fun e he => ?_⟩
    rcases List.mem_append.1 he with he | he
    · exact fl e he
    · exact fm e he
  · intro p c hc
    rcases k p c hc with h0 | ⟨d, hd, e⟩
    · exact .inl h0
    · rcases h p d hd with h1 | ⟨d', hd', e'⟩
      · exact .inl (e.trans h1)
      · exact .inr ⟨d', hd', e.trans e'⟩

theorem Touches.refl (ps : List Part) (s : State) : Touches ps s s := fun x _ => x.same_refl s

theorem Touches.trans {ps : List Part} {s t u : State} (h : Touches ps s t) (k : Touches ps t u) :
    Touches ps s u := fun x hx => Part.same_trans (h x hx) (k x hx)

theorem Touches.mono {ps qs : List Part} {s t : State} (h : Touches ps s t)
    (hs : ps.all qs.contains = true) : Touches qs s t := by
  intro x hx
  refine h x ?_
  by_contra hc
  have hc : ps.contains x = true := by simpa using hc
  have := List.all_eq_true.1 hs x (by simpa using hc)
  simp_all

/-- One operation after another. -/
theorem Touches.seq {ps qs rs : List Part} {s t u : State} (h : Touches qs s t) (k : Touches rs t u)
    (hq : qs.all ps.contains = true := by rfl) (hr : rs.all ps.contains = true := by rfl) :
    Touches ps s u := (h.mono hq).trans (k.mono hr)

/-- One part read off. -/
theorem Touches.get {ps : List Part} {s t : State} (h : Touches ps s t) (x : Part)
    (hx : ps.contains x = false) : x.same s t := h x hx

theorem Touches.ite {ps : List Part} {s t u : State} {c : Prop} [Decidable c] (h : c → Touches ps s t)
    (k : ¬c → Touches ps s u) : Touches ps s (if c then t else u) := by
  split
  · exact h ‹_›
  · exact k ‹_›

/-- A walk of a list touches what each of its steps touches. -/
theorem Touches.foldl {ps : List Part} {β : Type} (f : State → β → State)
    (h : ∀ s b, Touches ps s (f s b)) (l : List β) (s : State) : Touches ps s (l.foldl f s) := by
  induction l generalizing s with
  | nil => exact .refl _ _
  | cons b l ih => exact (h s b).trans (ih (f s b))

/-! ### Frames sent -/

theorem Touches.sends {s : State} {l : List (PortNo × Frame)} (h : ∀ e ∈ l, e.2.speech? = none) :
    Touches [.out] s { s with out := s.out ++ l } := by
  intro x hx
  cases x <;> first
    | rfl
    | exact fun _ => rfl
    | exact id
    | exact ⟨l, rfl⟩
    | exact ⟨l, rfl, h⟩
    | exact fun p c hc => .inr ⟨c, hc, rfl⟩
    | simp at hx

theorem State.sentTo_quiet {s : State} {p : PortNo} {f : Frame} (h : f.speech? = none) :
    ∀ e ∈ s.sentTo p f, e.2.speech? = none := by
  intro e he; simp only [State.sentTo] at he; split at he <;> simp_all

theorem State.noticeTo_quiet {s : State} {p : PortNo} {n : Notice} :
    ∀ e ∈ s.noticeTo p n, e.2.speech? = none := by
  intro e he; simp only [State.noticeTo] at he; split at he <;> simp_all [Frame.speech?]

theorem State.emit_touches {s : State} {p : PortNo} {f : Frame} (h : f.speech? = none) :
    Touches [.out] s (s.emit p f) := by
  rw [State.emit_eq]; exact .sends (State.sentTo_quiet h)

/-- A frame that may carry speech. -/
theorem State.emit_any_touches (s : State) (p : PortNo) (f : Frame) :
    Touches [.out, .speech] s (s.emit p f) := by
  rw [State.emit_eq]
  intro x hx
  cases x <;> first
    | rfl
    | exact fun _ => rfl
    | exact id
    | exact ⟨_, rfl⟩
    | exact fun p c hc => .inr ⟨c, hc, rfl⟩
    | simp at hx

theorem State.notify_touches (s : State) (p : PortNo) (n : Notice) : Touches [.out] s (s.notify p n) := by
  rw [State.notify_eq]; exact .sends State.noticeTo_quiet

theorem State.notifyEach_touches (s : State) (ps : List PortNo) (n : Notice) :
    Touches [.out] s (s.notifyEach ps n) := .foldl _ (fun s p => s.notify_touches p n) ps s

theorem State.notifyDesks_touches (s : State) (n : Notice) : Touches [.out] s (s.notifyDesks n) :=
  s.notifyEach_touches _ n

theorem State.reply_touches (s : State) (c : Cmd) (r : Result) (items : List Item) :
    Touches [.out] s (s.reply c r items) := State.emit_touches rfl

theorem State.replyClamped_touches (s : State) (c : Cmd) (b : Bool) (items : List Item) :
    Touches [.out] s (s.replyClamped c b items) := by
  rw [State.replyClamped_eq]; exact s.reply_touches _ _ _

/-! ### Port records -/

theorem State.setLink_touches (s : State) (p : PortNo) (l : Link) : Touches [.link] s (s.setLink p l) := by
  intro x hx
  cases x <;> first
    | rfl
    | exact id
    | (simp only [Part.same]; intro r; simp; done)
    | exact ⟨[], by simp⟩
    | (simp only [Part.same, State.ctx_setLink]; exact fun p c hc => .inr ⟨c, hc, rfl⟩)
    | exact fun _ => rfl
    | simp at hx

theorem State.updLink_touches (s : State) (p : PortNo) (f : Link → Link) :
    Touches [.link] s (s.updLink p f) := s.setLink_touches p _

theorem State.setIntake_touches (s : State) (p : PortNo) (i : Intake) :
    Touches [.intake] s (s.setIntake p i) := by
  intro x hx
  cases x <;> first
    | rfl
    | exact id
    | (simp only [Part.same]; intro r; simp; done)
    | exact ⟨[], by simp⟩
    | (simp only [Part.same, State.ctx_setIntake]; exact fun p c hc => .inr ⟨c, hc, rfl⟩)
    | exact fun _ => rfl
    | simp at hx

theorem State.setHandoff_touches (s : State) (p : PortNo) (h : Handoff) :
    Touches [.handoff] s (s.setHandoff p h) := by
  intro x hx
  cases x <;> first
    | rfl
    | exact id
    | (simp only [Part.same]; intro r; simp; done)
    | exact ⟨[], by simp⟩
    | (simp only [Part.same, State.ctx_setHandoff]; exact fun p c hc => .inr ⟨c, hc, rfl⟩)
    | exact fun _ => rfl
    | simp at hx

/-- A context put on a port keeps the law of position stacks when it brings an empty stack or that of the
context it replaces. -/
theorem State.setCtx_touches (s : State) (p : PortNo) (c : Option Ctx)
    (h : ∀ d, c = some d → d.stack = [] ∨ ∃ e, s.ctx p = some e ∧ d.stack = e.stack) :
    Touches [.ctx] s (s.setCtx p c) := by
  intro x hx
  cases x <;> first
    | rfl
    | exact id
    | (simp only [Part.same]; intro r; simp; done)
    | exact ⟨[], by simp⟩
    | (simp only [Part.same, State.ctx_setCtx]; intro r d hd; split at hd
       · next hr => subst hr; exact h d hd
       · exact .inr ⟨d, hd, rfl⟩)
    | exact fun _ => rfl
    | simp at hx

/-- Any context put on a port: the law of position stacks is then the caller's. -/
theorem State.setCtx_touches' (s : State) (p : PortNo) (c : Option Ctx) :
    Touches [.ctx, .positions] s (s.setCtx p c) := by
  intro x hx
  cases x <;> first
    | rfl
    | exact id
    | (simp only [Part.same]; intro r; simp; done)
    | exact ⟨[], by simp⟩
    | exact fun _ => rfl
    | simp at hx

theorem State.setLastDamage_touches (s : State) (p : PortNo) (b : Option Nat) :
    Touches [.damage] s (s.setLastDamage p b) := by
  intro x hx
  cases x <;> first
    | rfl
    | exact id
    | (simp only [Part.same]; intro r; simp; done)
    | exact ⟨[], by simp⟩
    | (simp only [Part.same, State.ctx_setLastDamage]; exact fun p c hc => .inr ⟨c, hc, rfl⟩)
    | exact fun _ => rfl
    | simp at hx

theorem State.setBuf_touches (s : State) (p : PortNo) (k : Bool) (b : Buffer) :
    Touches [.intake] s (s.setBuf p k b) := s.setIntake_touches p _

theorem State.testErrors_touches (s : State) (p : PortNo) : Touches [.link, .out] s (s.testErrors p) := by
  unfold State.testErrors
  refine .ite (fun _ => ?_) (fun _ => .ite (fun _ => ?_) (fun _ => .refl _ _))
  · exact ((s.setLink_touches p _).mono rfl).trans ((State.notify_touches _ _ _).mono rfl)
  · exact (s.setLink_touches p _).mono rfl

theorem State.goodFrame_touches (s : State) (p : PortNo) : Touches [.link, .out] s (s.goodFrame p) :=
  ((s.updLink_touches p _).mono rfl).trans (State.testErrors_touches _ p)

/-! ### Take and chunk records -/

/-- A change of a take that keeps its id. -/
theorem State.updTake_touches (s : State) (n : Nat) (f : Take → Take) (h : ∀ t, (f t).id = t.id) :
    Touches [.takes, .chains, .cues] s (s.updTake n f) := by
  intro x hx
  cases x <;> first
    | rfl
    | exact id
    | exact fun _ => rfl
    | exact ⟨[], by simp⟩
    | exact fun p c hc => .inr ⟨c, hc, rfl⟩
    | (simp only [Part.same, State.takeKeys, State.takes_updTake, List.map_map]
       refine List.map_congr_left fun e _ => ?_
       simp only [Function.comp]; split <;> simp [h])
    | simp at hx

/-- A change of a take that keeps its id and its chain. -/
theorem State.updTake_touches' (s : State) (n : Nat) (f : Take → Take) (h : ∀ t, (f t).id = t.id)
    (hc : ∀ t, (f t).chain = t.chain) : Touches [.takes, .cues] s (s.updTake n f) := by
  intro x hx
  by_cases e : x = .chains
  · subst e
    simp only [Part.same, State.chains, State.takes_updTake, List.map_map]
    refine List.map_congr_left fun e _ => ?_
    simp only [Function.comp]; split <;> simp [h, hc]
  · exact s.updTake_touches n f h x (by simp_all)

/-- A change of a take that keeps its id, chain, cue list and end. -/
theorem State.updTake_touches'' (s : State) (n : Nat) (f : Take → Take) (h : ∀ t, (f t).id = t.id)
    (hc : ∀ t, (f t).chain = t.chain) (hq : ∀ t, (f t).cues = t.cues)
    (he : ∀ t, (f t).endTime = t.endTime) : Touches [.takes] s (s.updTake n f) := by
  intro x hx
  by_cases e : x = .cues
  · subst e
    simp only [Part.same, State.cueLists, State.takes_updTake, List.map_map]
    refine List.map_congr_left fun e _ => ?_
    simp only [Function.comp]; split <;> simp [h, hq, he]
  · exact s.updTake_touches' n f h hc x (by simp_all)

theorem State.clearReservations_touches (s : State) (n : ChunkName) :
    Touches [.handoff] s (s.clearReservations n) := by
  intro x hx
  cases x <;> first
    | rfl
    | exact id
    | (simp only [Part.same]; intro r; simp; done)
    | exact ⟨[], by simp⟩
    | (simp only [Part.same, State.ctx_clearReservations]; exact fun p c hc => .inr ⟨c, hc, rfl⟩)
    | exact fun _ => rfl
    | simp at hx

/-- Chunk records replaced by no more of them. -/
theorem State.chunks_touches (s : State) (cs : List Chunk) (h : cs.length ≤ s.chunks.length) :
    Touches [.chunks] s { s with chunks := cs } := by
  intro x hx
  cases x <;> first
    | rfl
    | exact id
    | exact fun _ => rfl
    | exact ⟨[], by simp⟩
    | exact fun p c hc => .inr ⟨c, hc, rfl⟩
    | exact fun k => h.trans k
    | simp at hx

theorem State.updChunk_touches (s : State) (n : ChunkName) (f : Chunk → Chunk) :
    Touches [.handoff, .chunks] s (s.updChunk n f) :=
  ((s.chunks_touches _ (by simp)).mono rfl).trans ((State.clearReservations_touches _ n).mono rfl)

theorem State.freeChunk_touches (s : State) (n : ChunkName) : Touches [.chunks] s (s.freeChunk n) :=
  s.chunks_touches _ (List.length_filter_le ..)

/-! ### Single fields -/

theorem State.arbiter_touches (s : State) (a : Arbiter) : Touches [.arbiter] s { s with arbiter := a } := by
  intro x hx
  cases x <;> first
    | rfl
    | exact id
    | exact fun _ => rfl
    | exact ⟨[], by simp⟩
    | exact fun p c hc => .inr ⟨c, hc, rfl⟩
    | simp at hx

theorem State.pools_touches (s : State) (q : Pools)
    (h : ∀ k, (q.get k).parameters = (s.pools.get k).parameters) :
    Touches [.pools] s { s with pools := q } := by
  intro x hx
  cases x <;> first
    | rfl
    | exact id
    | exact fun _ => rfl
    | exact ⟨[], by simp⟩
    | exact fun p c hc => .inr ⟨c, hc, rfl⟩
    | exact h
    | simp at hx

theorem State.lowFlag_touches (s : State) (b : Bool) : Touches [.lowFlag] s { s with lowFlag := b } := by
  intro x hx
  cases x <;> first
    | rfl
    | exact id
    | exact fun _ => rfl
    | exact ⟨[], by simp⟩
    | exact fun p c hc => .inr ⟨c, hc, rfl⟩
    | simp at hx

theorem State.testLow_touches (s : State) : Touches [.lowFlag, .out] s s.testLow := by
  unfold State.testLow
  refine .ite (fun _ => ?_) (fun _ => .ite (fun _ => ?_) (fun _ => .refl _ _))
  · exact ((s.lowFlag_touches _).mono rfl).trans ((State.notifyEach_touches _ _ _).mono rfl)
  · exact ((s.lowFlag_touches _).mono rfl).trans ((State.notifyEach_touches _ _ _).mono rfl)

end Sys2Proof.Machine
end

