-- ==== Sys2Proof/Laws/Store.lean ====
section
/-!
SUPPORT. Sys2Proof/Laws/Store.lean: what each operation on the cue pool and the store touches.
-/

namespace Sys2Proof.Machine

set_option Elab.async false

/-! ### Cues -/

theorem State.cueArrival_touches (s : State) :
    Touches [.cueArrival] s { s with cueArrival := min (s.cueArrival + 1) Config.top32 } := by
  intro x hx
  cases x <;> first
    | rfl
    | exact id
    | exact fun _ => rfl
    | exact ⟨[], by simp⟩
    | exact fun p c hc => .inr ⟨c, hc, rfl⟩
    | exact fun _ => Nat.min_le_right ..
    | simp at hx

theorem State.placeCue_touches (s : State) (take time : Nat) (kind : CueKind) (value : Option Nat)
    (origin : Origin) :
    Touches [.takes, .cues, .cueArrival] s (s.placeCue take time kind value origin) := by
  unfold State.placeCue
  split
  · exact .refl _ _
  · exact (s.cueArrival_touches.mono rfl).trans
      (Touches.mono (State.updTake_touches' _ _ _ (by intro _; rfl) (by intro _; rfl)) rfl)

theorem State.placeClosing_touches (s : State) (take time : Nat) (kind : CueKind) (value : Option Nat)
    (origin : Origin) :
    Touches [.takes, .cues, .cueArrival] s (s.placeClosing take time kind value origin) :=
  .ite (fun _ => s.placeCue_touches _ _ _ _ _) (fun _ => .refl _ _)

theorem State.placeIfAdmitted_touches (s : State) (take time : Nat) (kind : CueKind)
    (value : Option Nat) (origin : Origin) :
    Touches [.takes, .cues, .cueArrival] s (s.placeIfAdmitted take time kind value origin) :=
  .ite (fun _ => s.placeCue_touches _ _ _ _ _) (fun _ => .refl _ _)

/-! ### The arbiter -/

theorem State.grantWrite_touches {s t : State} (h : s.grantWrite = some t) : Touches [.arbiter] s t := by
  unfold State.grantWrite at h
  split at h
  · simp at h
  · split at h
    · simp at h
    · simp only [Option.some.injEq] at h; subst h; exact s.arbiter_touches _

theorem State.grantClass_touches {s t : State} {k : CtxKind} {last : PortNo}
    {mark : Arbiter → PortNo → Arbiter} (h : s.grantClass k last mark = some t) :
    Touches [.arbiter] s t := by
  unfold State.grantClass at h
  split at h
  · simp at h
  · split at h
    · simp at h
    · simp only [Option.some.injEq] at h; subst h; exact s.arbiter_touches _

theorem State.grantRelease_touches {s t : State} (h : s.grantRelease = some t) :
    Touches [.arbiter] s t := by
  unfold State.grantRelease at h
  split at h
  · simp at h
  · simp only [Option.some.injEq] at h; subst h; exact s.arbiter_touches _

theorem State.grant_touches (s : State) : Touches [.arbiter] s s.grant := by
  unfold State.grant
  refine .ite (fun _ => .refl _ _) (fun _ => ?_)
  cases h1 : s.grantWrite with
  | some t => exact State.grantWrite_touches h1
  | none =>
    cases h2 : s.grantClass .reader s.arbiter.lastReader Arbiter.markReader with
    | some t => exact State.grantClass_touches h2
    | none =>
      cases h3 : s.grantClass .typist s.arbiter.lastTypist Arbiter.markTypist with
      | some t => exact State.grantClass_touches h3
      | none =>
        cases h4 : s.grantClass .exporting s.arbiter.lastExport Arbiter.markExport with
        | some t => exact State.grantClass_touches h4
        | none =>
          cases h5 : s.grantRelease with
          | some t => exact State.grantRelease_touches h5
          | none => exact .refl _ _

theorem State.endTenure_touches (s : State) : Touches [.arbiter] s s.endTenure := s.arbiter_touches _

theorem State.requestRead_touches (s : State) (r : ReadReq) : Touches [.arbiter] s (s.requestRead r) :=
  (s.arbiter_touches _).trans (State.grant_touches _)

theorem State.withdrawRead_touches (s : State) (p : PortNo) : Touches [.arbiter] s (s.withdrawRead p) :=
  s.arbiter_touches _

theorem State.requestRelease_touches (s : State) (take steps : Nat) :
    Touches [.arbiter] s (s.requestRelease take steps) :=
  (s.arbiter_touches _).trans (State.grant_touches _)

/-! A request, its withdrawal and a grant leave what a player's moves read. -/

@[simp] theorem State.ctx_withdrawRead (s : State) (p q : PortNo) : (s.withdrawRead p).ctx q = s.ctx q := rfl
@[simp] theorem State.link_withdrawRead (s : State) (p q : PortNo) :
    (s.withdrawRead p).link q = s.link q := rfl
@[simp] theorem State.out_withdrawRead (s : State) (p : PortNo) : (s.withdrawRead p).out = s.out := rfl
@[simp] theorem State.ctx_requestRead (s : State) (r : ReadReq) (q : PortNo) :
    (s.requestRead r).ctx q = s.ctx q := (s.requestRead_touches r).get .ctx rfl q
@[simp] theorem State.link_requestRead (s : State) (r : ReadReq) (q : PortNo) :
    (s.requestRead r).link q = s.link q := (s.requestRead_touches r).get .link rfl q
@[simp] theorem State.out_requestRead (s : State) (r : ReadReq) : (s.requestRead r).out = s.out :=
  (s.requestRead_touches r).get .out rfl
@[simp] theorem State.ctx_grant (s : State) (q : PortNo) : s.grant.ctx q = s.ctx q :=
  s.grant_touches.get .ctx rfl q
@[simp] theorem State.out_grant (s : State) : s.grant.out = s.out := s.grant_touches.get .out rfl

/-! ### Records -/

theorem Rec.bytes_length (r : Rec) : r.bytes.length = r.size := by
  cases r <;> simp [Rec.bytes, Rec.size, bytes16]

/-- A block that stands as it was written has kept its heads. -/
theorem headsKept_written (rs : List Rec) : headsKept rs (recsBytes rs) = true := by
  induction rs with
  | nil => rfl
  | cons r rs ih =>
    have h : 2 ≤ r.bytes.length := by rw [Rec.bytes_length]; cases r <;> simp [Rec.size]
    have e : recsBytes (r :: rs) = r.bytes ++ recsBytes rs := rfl
    simp [headsKept, e, ih, ← Rec.bytes_length, List.take_append_of_le_length h]

theorem reread_written (rs : List Rec) : reread rs (recsBytes rs) = rs := by
  induction rs with
  | nil => rfl
  | cons r rs ih =>
    have e : recsBytes (r :: rs) = r.bytes ++ recsBytes rs := rfl
    cases r with
    | silence n => simp [reread, e, Rec.bytes, bytes16, ih]
    | speech c =>
      have x : (Rec.speech c).bytes = bytes16 Config.speechHead ++ c.toArray.toList := rfl
      rw [e, x]
      simp [reread, bytes16, codedFrom, ih]

/-- A block that stands as it was written reads as the records it was written as (R52). -/
theorem Stored.content_written (rs : List Rec) : Stored.content { recs := rs, bytes := recsBytes rs } = rs := by
  simp [Stored.content, headsKept_written, reread_written]
/-! ### Blocks -/

theorem State.directory_touches (s : State) (d : Table DirEntry) (h : s.directory.wf → d.wf) :
    Touches [.directory] s { s with directory := d } := by
  intro x hx
  cases x <;> first
    | rfl
    | exact id
    | exact fun _ => rfl
    | exact ⟨[], by simp⟩
    | exact fun p c hc => .inr ⟨c, hc, rfl⟩
    | exact h
    | simp at hx

theorem State.store_touches (s : State) (d : Table Stored) (h : s.store.wf → d.wf) :
    Touches [.store] s { s with store := d } := by
  intro x hx
  cases x <;> first
    | rfl
    | exact id
    | exact fun _ => rfl
    | exact ⟨[], by simp⟩
    | exact fun p c hc => .inr ⟨c, hc, rfl⟩
    | exact h
    | simp at hx

theorem State.free_touches (s : State) (f : FreeList) : Touches [.free] s { s with free := f } := by
  intro x hx
  cases x <;> first
    | rfl
    | exact id
    | exact fun _ => rfl
    | exact ⟨[], by simp⟩
    | exact fun p c hc => .inr ⟨c, hc, rfl⟩
    | simp at hx

theorem State.closing_touches (s : State) (d : Table DirEntry) (a : Arbiter)
    (h : s.directory.wf → d.wf) :
    Touches [.directory, .arbiter] s { s with directory := d, arbiter := a } :=
  Touches.trans (t := { s with directory := d }) ((s.directory_touches d h).mono rfl)
    ((State.arbiter_touches { s with directory := d } a).mono rfl)

theorem State.closeBlock_touches (s : State) (p : PortNo) (k : Bool) :
    Touches [.intake, .directory, .arbiter] s (s.closeBlock p k) := by
  unfold State.closeBlock
  split
  · refine Touches.trans ((s.setBuf_touches p k _).mono rfl)
      (Touches.trans (Touches.mono (State.closing_touches _ _ _ ?_) rfl)
        ((State.grant_touches _).mono rfl))
    exact fun h => TableLaws.change_wf h _ _
  · exact .refl _ _

theorem State.closeOpenBlock_touches (s : State) (take : Nat) :
    Touches [.intake, .directory, .arbiter] s (s.closeOpenBlock take) := by
  unfold State.closeOpenBlock
  split
  · exact .refl _ _
  · split
    · exact .refl _ _
    · exact s.closeBlock_touches _ _

theorem State.taking_touches (s : State) (f : FreeList) (d : Table DirEntry)
    (h : s.directory.wf → d.wf) :
    Touches [.free, .directory] s { s with free := f, directory := d } :=
  Touches.trans (t := { s with free := f }) ((s.free_touches f).mono rfl)
    ((State.directory_touches { s with free := f } d h).mono rfl)

/-- A change of a take that keeps its id, cue list and end. -/
theorem State.growChain_touches (s : State) (n : Nat) (f : Take → Take) (h : ∀ t, (f t).id = t.id)
    (hq : ∀ t, (f t).cues = t.cues) (he : ∀ t, (f t).endTime = t.endTime) :
    Touches [.takes, .chains] s (s.updTake n f) := by
  intro x hx
  by_cases e : x = .cues
  · subst e
    simp only [Part.same, State.cueLists, State.takes_updTake, List.map_map]
    refine List.map_congr_left fun e _ => ?_
    simp only [Function.comp]; split <;> simp [h, hq, he]
  · exact s.updTake_touches n f h x (by simp_all)

theorem State.allocate_touches (s : State) (p : PortNo) (k : Bool) (take start : Nat) (r : Rec) :
    Touches [.free, .directory, .intake, .takes, .chains, .lowFlag, .out] s
      (s.allocate p k take start r) := by
  unfold State.allocate
  split
  · exact .refl _ _
  · refine Touches.trans (Touches.mono (State.taking_touches _ _ _ ?_) rfl)
      (Touches.trans ((State.setBuf_touches _ p k _).mono rfl)
        (Touches.trans (Touches.mono (State.growChain_touches _ take _ ?_ ?_ ?_) rfl)
          ((State.testLow_touches _).mono rfl)))
    · exact fun h => TableLaws.put_wf h _ _
    all_goals intro _; rfl

end Sys2Proof.Machine
end

