-- ==== Sys2Proof/Laws/Pools.lean ====
section
/-!
SUPPORT. Sys2Proof/Laws/Pools.lean: what each operation on the pools, the completion log and the split touches.
-/

namespace Sys2Proof.Machine

set_option Elab.async false

/-! ### Ready lists and offers -/

theorem Pools.get_set (ps : Pools) (k j : PoolId) (q : Pool) :
    (ps.set k q).get j = if j = k then q else ps.get j := by
  cases k <;> cases j <;> rfl

theorem State.leaveReady_touches (s : State) (p : PortNo) : Touches [.pools] s (s.leaveReady p) :=
  s.pools_touches _ (fun k => by cases k <;> rfl)

theorem State.joinReady_touches (s : State) (p : PortNo) (k : PoolId) :
    Touches [.pools] s (s.joinReady p k) := by
  refine .seq (s.leaveReady_touches p) (State.pools_touches _ _ (fun j => ?_))
  rw [Pools.get_set]
  split
  · next h => subst h; rfl
  · rfl

/-- What an offer, its end or a pass may touch. -/
abbrev offerParts : List Part := [.pools, .handoff, .chunks, .out]

theorem State.sendOffer_touches (s : State) (p : PortNo) (n : ChunkName) :
    Touches [.out] s (s.sendOffer p n) := by
  unfold State.sendOffer
  split
  · exact State.notify_touches _ _ _
  · exact .refl _ _

theorem State.makeOffer_touches (s : State) (p : PortNo) (n : ChunkName) :
    Touches offerParts s (s.makeOffer p n) :=
  .seq (s.leaveReady_touches p) (.seq (ps := offerParts) (State.updChunk_touches _ _ _)
    (.seq (ps := offerParts) (State.setHandoff_touches _ _ _) (State.sendOffer_touches _ _ _)))

theorem State.offerOne_touches (k : PoolId) (s : State) (c : Chunk) :
    Touches offerParts s (State.offerOne k s c) := by
  unfold State.offerOne
  split
  · exact s.makeOffer_touches _ _
  · exact .refl _ _

theorem State.offerPass_touches (s : State) (k : PoolId) : Touches offerParts s (s.offerPass k) :=
  .foldl _ (State.offerOne_touches k) _ s

theorem State.offerPassOf_touches (s : State) (k : Option PoolId) :
    Touches offerParts s (s.offerPass? k) := by
  cases k
  · exact .refl _ _
  · exact s.offerPass_touches _

theorem State.endOffer_touches (s : State) (p : PortNo) (f : Chunk → Chunk) (noticed : Bool) :
    Touches [.handoff, .chunks, .out] s (s.endOffer p f noticed) := by
  unfold State.endOffer
  split
  · exact .refl _ _
  · rename_i o _
    have h : ∀ t, Touches [.handoff, .chunks] s t → Touches [.handoff, .chunks, .out] s
        (if noticed then t.notify p (.offerWithdrawn o.chunk) else t) :=
      fun t h => .ite (fun _ => .seq h (State.notify_touches _ _ _)) (fun _ => h.mono rfl)
    exact h _ (.seq (State.setHandoff_touches _ _ _) (State.updChunk_touches _ _ _))

theorem State.rejoin_touches (s : State) (p : PortNo) (k : Option PoolId) :
    Touches [.pools] s (s.rejoin p k) := by
  cases k
  · exact .refl _ _
  · exact s.joinReady_touches _ _

theorem State.withdrawOffer_touches (s : State) (p : PortNo) (noticed rejoins : Bool) :
    Touches offerParts s (s.withdrawOffer p noticed rejoins) := by
  unfold State.withdrawOffer
  refine .ite (fun _ => .refl _ _) (fun _ => ?_)
  have h := s.endOffer_touches p Chunk.unoffer noticed
  cases rejoins
  · exact .seq h (State.offerPassOf_touches _ _)
  · exact .seq h (.seq (ps := offerParts) (State.rejoin_touches _ _ _) (State.offerPassOf_touches _ _))

theorem State.raiseChunk_touches (level : Nat) (s : State) (n : ChunkName) :
    Touches offerParts s (State.raiseChunk level s n) := by
  unfold State.raiseChunk
  split
  · exact .refl _ _
  · refine .ite (fun _ => .refl _ _) (fun _ => ?_)
    dsimp only
    split
    · split
      · exact .seq (State.updChunk_touches _ _ _) (State.withdrawOffer_touches _ _ _ _)
      · exact (State.updChunk_touches _ _ _).mono rfl
    · exact (State.updChunk_touches _ _ _).mono rfl

/-! ### The completion log -/

theorem State.log_touches (s : State) (l : List LogRec)
    (h : s.log.length ≤ Config.logRecords → l.length ≤ Config.logRecords) :
    Touches [.log] s { s with log := l } := by
  intro x hx
  cases x <;> first
    | rfl
    | exact id
    | exact fun _ => rfl
    | exact ⟨[], by simp⟩
    | exact fun p c hc => .inr ⟨c, hc, rfl⟩
    | exact h
    | simp at hx

theorem State.overrun_touches (s : State) (b : Bool) : Touches [.overrun] s { s with overrun := b } := by
  intro x hx
  cases x <;> first
    | rfl
    | exact id
    | exact fun _ => rfl
    | exact ⟨[], by simp⟩
    | exact fun p c hc => .inr ⟨c, hc, rfl⟩
    | simp at hx

theorem State.logWrite_touches (s : State) (r : LogRec) :
    Touches [.log, .overrun, .out] s (s.logWrite r) := by
  unfold State.logWrite
  refine .ite (fun h => ?_) (fun _ => (s.overrun_touches true).mono rfl)
  have h1 : Touches [.log] s { s with log := s.log ++ [r] } :=
    s.log_touches _ (fun _ => by simp; omega)
  exact .ite (fun _ => .seq h1 (State.notifyDesks_touches _ _)) (fun _ => h1.mono rfl)

/-! ### Splitting -/

/-- What the cut test may touch. -/
abbrev cutParts : List Part :=
  [.takes, .arrivalSeq, .deferral, .pools, .handoff, .chunks, .out]

theorem State.createChunk_touches (s : State) (c : Chunk) (h : s.chunks.length < Config.chunkRecords) :
    Touches offerParts s (s.createChunk c) := by
  have h1 : Touches [.chunks] s { s with chunks := s.chunks ++ [c] } := by
    intro x hx
    cases x <;> first
      | rfl
      | exact id
      | exact fun _ => rfl
      | exact ⟨[], by simp⟩
      | exact fun p c hc => .inr ⟨c, hc, rfl⟩
      | (simp only [Part.same, List.length_append, List.length_singleton]; omega)
      | simp at hx
  exact .seq h1 (State.offerPassOf_touches _ _)

theorem State.arrivalSeq_touches (s : State) (h : s.arrivalSeq < Config.top32) :
    Touches [.arrivalSeq] s { s with arrivalSeq := s.arrivalSeq + 1 } := by
  intro x hx
  cases x <;> first
    | rfl
    | exact id
    | exact fun _ => rfl
    | exact ⟨[], by simp⟩
    | exact fun p c hc => .inr ⟨c, hc, rfl⟩
    | exact fun _ => h
    | simp at hx

theorem State.makeChunk_touches {service : Bool} (s : State) (t : Take) (start stop playStart : Nat) (final : Bool)
    (h : s.canMake service = true) : Touches cutParts s (s.makeChunk t start stop playStart final) := by
  simp only [State.canMake, Bool.and_eq_true, decide_eq_true_eq] at h
  have h1 := s.createChunk_touches (s.newChunk t start stop playStart final) h.1.1
  have h2 := (h1.get .arrivalSeq rfl : _ = _)
  exact .seq h1 (.seq (ps := cutParts) (State.arrivalSeq_touches _ (h2 ▸ h.1.2))
    (State.updTake_touches'' _ _ _ (by intro _; rfl) (by intro _; rfl) (by intro _; rfl)
      (by intro _; rfl)))

theorem State.deferral_touches (s : State) (l : List Nat) :
    Touches [.deferral] s { s with deferral := l } := by
  intro x hx
  cases x <;> first
    | rfl
    | exact id
    | exact fun _ => rfl
    | exact ⟨[], by simp⟩
    | exact fun p c hc => .inr ⟨c, hc, rfl⟩
    | simp at hx

theorem State.deferCut_touches (s : State) (t : Take) (nominal : Nat) :
    Touches cutParts s (s.deferCut t nominal) := by
  unfold State.deferCut
  refine .ite (fun _ => .refl _ _) (fun _ => .seq
    (State.updTake_touches'' _ _ _ (by intro _; rfl) (by intro _; rfl) (by intro _; rfl)
      (by intro _; rfl)) (.seq (ps := cutParts) (State.deferral_touches _ _)
      (State.notifyDesks_touches _ _)))

theorem State.rollingCuts_touches (take : Nat) (service : Bool) (fuel : Nat) (s : State) :
    Touches cutParts s (State.rollingCuts take service fuel s) := by
  induction fuel generalizing s with
  | zero => exact .refl _ _
  | succ fuel ih =>
    unfold State.rollingCuts
    split
    · exact .refl _ _
    · refine .ite (fun _ => .ite (fun h => ?_) (fun _ => s.deferCut_touches _ _)) (fun _ => .refl _ _)
      exact (s.makeChunk_touches _ _ _ _ _ h).trans (ih _)

theorem State.mergeTail_touches (s : State) (t : Take) (last : Chunk) :
    Touches cutParts s (s.mergeTail t last) :=
  .seq (State.updChunk_touches _ _ _) (State.updTake_touches'' _ _ _ (by intro _; rfl)
    (by intro _; rfl) (by intro _; rfl) (by intro _; rfl))

theorem State.finalChunk_touches (s : State) (t : Take) (service : Bool) (start playStart : Nat) :
    Touches cutParts s (s.finalChunk t service start playStart) :=
  .ite (fun h => s.makeChunk_touches _ _ _ _ _ h) (fun _ => s.deferCut_touches _ _)

theorem State.finalSplit_touches (s : State) (t : Take) (service : Bool) :
    Touches cutParts s (s.finalSplit t service) := by
  unfold State.finalSplit
  refine .ite (fun _ => s.finalChunk_touches _ _ _ _) (fun _ => .ite
    (fun _ => s.finalChunk_touches _ _ _ _) (fun _ => ?_))
  split
  · exact .ite (fun _ => s.mergeTail_touches _ _) (fun _ => s.finalChunk_touches _ _ _ _)
  · exact s.finalChunk_touches _ _ _ _

theorem State.finalStep_touches (s : State) (take : Nat) (service : Bool) :
    Touches cutParts s (s.finalStep take service) := by
  unfold State.finalStep
  split
  · exact .refl _ _
  · exact .ite (fun _ => s.finalSplit_touches _ _) (fun _ => .refl _ _)

/-- A cut test touches no chain, cue list, port record, intake state, play context, block or setting. -/
theorem State.cutTest_touches (s : State) (take : Nat) (service : Bool) :
    Touches cutParts s (s.cutTest take service) := by
  unfold State.cutTest
  split
  · exact .refl _ _
  · exact .ite (fun _ => .refl _ _) (fun _ => (State.rollingCuts_touches _ _ _ _).trans
      (State.finalStep_touches _ _ _))

theorem State.signalCue_touches (s : State) (take time : Nat) (kind : CueKind) :
    Touches cutParts s (s.signalCue take time kind) := by
  unfold State.signalCue
  split
  · exact .refl _ _
  · exact .ite (fun _ => s.cutTest_touches _ _) (fun _ => .refl _ _)

theorem State.serveDeferral_touches (l : List Nat) (s : State) :
    Touches cutParts s (State.serveDeferral l s) := by
  induction l generalizing s with
  | nil => exact .refl _ _
  | cons take rest ih =>
    unfold State.serveDeferral
    refine (s.cutTest_touches take true).trans (.ite (fun _ => ?_) (fun _ => .refl _ _))
    have h : ∀ t : State, Touches cutParts t
        (State.updTake { t with deferral := t.deferral.filter (fun n => n ≠ take) } take
          (fun t => { t with deferred := false })) := fun t =>
      .seq (State.deferral_touches _ _) (State.updTake_touches'' _ _ _ (by intro _; rfl)
        (by intro _; rfl) (by intro _; rfl) (by intro _; rfl))
    exact .ite (fun _ => (h _).trans (ih _)) (fun _ => h _)

theorem State.recompute_touches (s : State) : Touches [.handoff, .chunks] s s.recompute :=
  .foldl _ (fun s c => .ite (fun _ => s.updChunk_touches _ _) (fun _ => .refl _ _)) _ s

end Sys2Proof.Machine
end

