-- ==== Sys2Proof/Laws/Playback.lean ====
section
/-!
SUPPORT. Sys2Proof/Laws/Playback.lean: what each operation on play contexts, exports and holds touches.
-/

namespace Sys2Proof.Machine

set_option Elab.async false

/-! ### Contexts -/

/-- A context replaced by one with its position stack. -/
theorem State.reCtx_touches {s : State} {p : PortNo} {c : Ctx} (h : s.ctx p = some c) (d : Ctx)
    (hd : d.stack = c.stack) : Touches [.ctx] s (s.setCtx p (some d)) :=
  s.setCtx_touches p _ (fun e he => .inr ⟨c, h, by cases he; exact hd⟩)

theorem State.noCtx_touches (s : State) (p : PortNo) : Touches [.ctx] s (s.setCtx p none) :=
  s.setCtx_touches p _ (fun e he => by cases he)

theorem State.updCtx_touches (s : State) (p : PortNo) (f : Ctx → Ctx)
    (h : ∀ c, (f c).stack = c.stack) : Touches [.ctx] s (s.updCtx p f) := by
  unfold State.updCtx
  split
  · exact .refl _ _
  · next hc => exact State.reCtx_touches hc _ (h _)

theorem State.createCtx_touches (s : State) (p : PortNo) (kind : CtxKind)
    (take start stop cursor : Nat) (mode : Mode) (closed : Bool) :
    Touches [.ctx, .damage, .takes] s (s.createCtx p kind take start stop cursor mode closed) := by
  refine .seq (s.setCtx_touches p (some _) (fun d hd => .inl ?_))
    (.seq (ps := [.ctx, .damage, .takes]) (State.setLastDamage_touches _ _ _)
      (State.updTake_touches'' _ _ _ (by intro _; rfl) (by intro _; rfl) (by intro _; rfl)
        (by intro _; rfl)))
  cases hd; rfl

theorem State.dropRead_touches (s : State) (p : PortNo) : Touches [.ctx, .arbiter] s (s.dropRead p) := by
  unfold State.dropRead
  split
  · exact .refl _ _
  · next c hc =>
    exact .seq (s.withdrawRead_touches p)
      (State.reCtx_touches (s := s.withdrawRead p) hc { c with outstanding := false } rfl)

theorem State.removeCtx_touches (s : State) (p : PortNo) :
    Touches [.ctx, .arbiter, .takes] s (s.removeCtx p) := by
  unfold State.removeCtx
  split
  · exact .refl _ _
  · exact .seq (s.withdrawRead_touches p) (.seq (ps := [.ctx, .arbiter, .takes])
      (State.noCtx_touches _ _) (State.updTake_touches'' _ _ _ (by intro _; rfl)
        (by intro _; rfl) (by intro _; rfl) (by intro _; rfl)))

theorem State.askReads_touches (s : State) (p : PortNo) : Touches [.ctx, .arbiter] s (s.askReads p) := by
  unfold State.askReads
  split
  · exact .refl _ _
  · next c hc =>
    refine .ite (fun _ => ?_) (fun _ => .refl _ _)
    exact .seq (State.reCtx_touches hc { c with outstanding := true } rfl)
      (State.requestRead_touches _ _)

/-! ### Frames -/

/-- What the playing of a context may touch. -/
abbrev playParts : List Part := [.ctx, .arbiter, .out, .speech]

theorem State.markFrame_touches (p : PortNo) (s : State) (time : Nat) :
    Touches [.ctx, .out] s (State.markFrame p s time) := by
  unfold State.markFrame
  split
  · exact .refl _ _
  · next c hc =>
    refine .ite (fun _ => ?_) (fun _ =>
      (State.reCtx_touches hc { c with stretch := false } rfl).mono rfl)
    have h := State.reCtx_touches hc
      { c with stretch := true, silenced := c.silenced || c.kind = .exporting } rfl
    exact .ite (fun _ => h.mono rfl) (fun _ => .seq h (State.notify_touches _ _ _))

theorem State.endIfDone_touches (s : State) (p : PortNo) :
    Touches [.ctx, .out] s (s.endIfDone p) := by
  unfold State.endIfDone
  split
  · exact .refl _ _
  · next c hc =>
    refine .ite (fun _ => ?_) (fun _ => .refl _ _)
    exact .seq (State.reCtx_touches hc
      { c with mode := .stopped, pacing := .onData, readAhead := [] } rfl) (State.notify_touches _ _ _)

theorem State.sendPlayFrame_touches (s : State) (p : PortNo) (c : Ctx) (r : ReadResult) :
    Touches playParts s (s.sendPlayFrame p c r) :=
  .seq (State.markFrame_touches _ _ _) (.seq (ps := playParts) (State.emit_any_touches _ _ _)
    (.seq (ps := playParts) (State.updCtx_touches _ _ _ (by intro _; rfl))
      (.seq (ps := playParts) (State.endIfDone_touches _ _) (State.askReads_touches _ _))))

@[simp] theorem Ctx.resumed_stack (c : Ctx) : c.resumed.stack = c.stack := by
  unfold Ctx.resumed; split <;> rfl

theorem State.sendIfCovered_touches (s : State) (p : PortNo) :
    Touches playParts s (s.sendIfCovered p) := by
  unfold State.sendIfCovered
  split
  · exact .refl _ _
  · next c hc =>
    refine .ite (fun _ => ?_) (fun _ => .refl _ _)
    split
    · exact .seq (State.reCtx_touches hc _ c.resumed_stack) (State.sendPlayFrame_touches _ _ _ _)
    · exact .refl _ _

theorem State.sendExportFrame_touches (s : State) (p : PortNo) (c : Ctx) (r : ReadResult) :
    Touches playParts s (s.sendExportFrame p c r) := by
  unfold State.sendExportFrame
  split
  · exact .seq (State.markFrame_touches _ _ _) (.seq (ps := playParts)
      (State.emit_any_touches _ _ _) (State.updCtx_touches _ _ _ (by intro _; rfl)))
  · exact .seq (Touches.foldl _ (fun s i => State.markFrame_touches p s (c.cursor + 2 * i)) _ s)
      (.seq (ps := playParts)
        (State.emit_any_touches _ _ _) (State.updCtx_touches _ _ _ (by intro _; rfl)))

/-- What a running export may touch. -/
abbrev exportParts : List Part := [.ctx, .arbiter, .takes, .out, .speech]

theorem State.completeExport_touches (s : State) (p : PortNo) (c : Ctx) :
    Touches exportParts s (s.completeExport p c) := by
  have h : ∀ (b : Bool) (t : State), Touches [.takes] t (if b then
      t.updTake c.take (fun t => { t with exported := true }) else t) := fun b t =>
    .ite (fun _ => State.updTake_touches'' _ _ _ (by intro _; rfl) (by intro _; rfl)
      (by intro _; rfl) (by intro _; rfl)) (fun _ => .refl _ _)
  exact .seq (State.notify_touches _ _ _) (.seq (ps := exportParts)
    (h (c.closedAtBegin && !c.silenced) _) (State.removeCtx_touches _ _))

theorem State.runExport_touches (p : PortNo) (fuel : Nat) (s : State) :
    Touches exportParts s (State.runExport p fuel s) := by
  induction fuel generalizing s with
  | zero => exact .refl _ _
  | succ fuel ih =>
    unfold State.runExport
    split
    · exact .refl _ _
    · refine .ite (fun _ => s.completeExport_touches _ _) (fun _ => ?_)
      split
      · exact .seq (State.sendExportFrame_touches _ _ _ _) (ih _)
      · exact (s.askReads_touches p).mono rfl

theorem State.continueExport_touches (s : State) (p : PortNo) :
    Touches exportParts s (s.continueExport p) := by
  unfold State.continueExport
  split
  · exact .refl _ _
  · exact State.runExport_touches _ _ _

theorem State.deliver_touches (s : State) (p : PortNo) (r : ReadResult) (damaged : Bool) :
    Touches exportParts s (s.deliver p r damaged) := by
  unfold State.deliver
  split
  · exact .refl _ _
  · next c hc =>
    dsimp only
    split
    · exact .seq (State.reCtx_touches hc _ (by rfl)) (State.continueExport_touches _ _)
    · exact .seq (State.reCtx_touches hc _ (by rfl)) (.seq (ps := exportParts)
        (State.sendIfCovered_touches _ _) (State.askReads_touches _ _))
    · exact .seq (State.reCtx_touches hc _ (by rfl)) (.seq (ps := exportParts)
        (State.sendIfCovered_touches _ _) (State.askReads_touches _ _))

/-! ### Moves -/

theorem State.afterMove_touches (s : State) (p : PortNo) :
    Touches [.ctx, .arbiter] s (s.afterMove p) := by
  unfold State.afterMove
  split
  · exact .refl _ _
  · next c hc =>
    have h : ∀ d : Ctx, d.stack = c.stack →
        Touches [.ctx, .arbiter] s ((s.withdrawRead p).setCtx p (some d)) := fun d hd =>
      .seq (s.withdrawRead_touches p) (State.reCtx_touches (s := s.withdrawRead p) hc d hd)
    exact .ite (fun _ => h _ rfl) (fun _ => .ite (fun _ => h _ rfl) (fun _ => h _ rfl))

theorem State.afterMoveReply_touches (s : State) (p : PortNo) (b : Bool) :
    Touches [.ctx, .arbiter, .out] s (s.afterMoveReply p b) := by
  unfold State.afterMoveReply
  split
  · exact .refl _ _
  · exact .ite (fun _ => (State.notify_touches _ _ _).mono rfl)
      (fun _ => (s.askReads_touches p).mono rfl)

theorem State.stopCtx_touches (s : State) (p : PortNo) :
    Touches [.ctx, .arbiter] s (s.stopCtx p) := by
  unfold State.stopCtx
  split
  · exact .refl _ _
  · exact .ite (fun _ => .refl _ _) (fun _ => .seq (s.dropRead_touches p)
      (State.updCtx_touches _ _ _ (by intro _; rfl)))

/-! ### Holds -/

theorem State.dropReservation_touches (s : State) (p : PortNo) :
    Touches [.handoff] s (s.dropReservation p) := s.setHandoff_touches p _

theorem State.loadTypist_touches (s : State) (p : PortNo) (n : ChunkName) (cursor : Option Nat) :
    Touches [.ctx, .damage, .takes] s (s.loadTypist p n cursor) := by
  unfold State.loadTypist
  split
  · exact .refl _ _
  · exact s.createCtx_touches _ _ _ _ _ _ _ _

/-- What a hold made, ended or lost may touch. -/
abbrev holdParts : List Part :=
  [.ctx, .damage, .takes, .arbiter, .log, .overrun, .pools, .handoff, .chunks, .out]

theorem State.makeHold_touches (s : State) (p : PortNo) (n : ChunkName) :
    Touches holdParts s (s.makeHold p n) :=
  .seq (s.leaveReady_touches p) (.seq (ps := holdParts) (State.updChunk_touches _ _ _)
    (State.loadTypist_touches _ _ _ _))

/-- What a hold ended or lost may touch. -/
abbrev losingParts : List Part :=
  [.ctx, .takes, .arbiter, .log, .overrun, .pools, .handoff, .chunks, .out]

theorem State.parkChunk_touches (s : State) (c : Chunk) :
    Touches [.handoff, .chunks, .log, .overrun, .out] s (s.parkChunk c) :=
  .seq (State.updChunk_touches _ _ _) (State.logWrite_touches _ _)

theorem State.loseHold_touches (s : State) (p : PortNo) : Touches losingParts s (s.loseHold p) := by
  unfold State.loseHold
  split
  · exact (s.removeCtx_touches p).mono rfl
  · exact .ite (fun _ => .seq (s.removeCtx_touches p) (State.parkChunk_touches _ _))
      (fun _ => .seq (s.removeCtx_touches p) (State.updChunk_touches _ _ _))

theorem State.typistQuiet_touches (s : State) (p : PortNo) : Touches losingParts s (s.typistQuiet p) :=
  .seq (s.leaveReady_touches p) (.seq (ps := losingParts) (State.dropReservation_touches _ _)
    (.seq (ps := losingParts) (State.withdrawOffer_touches _ _ _ _) (State.stopCtx_touches _ _)))

theorem State.typistLoss_touches (s : State) (p : PortNo) : Touches losingParts s (s.typistLoss p) := by
  have h : ∀ (b : Bool) (k : Option PoolId) (t : State), Touches offerParts t
      (if b then t.offerPass? k else t) := fun b k t =>
    .ite (fun _ => t.offerPassOf_touches k) (fun _ => .refl _ _)
  exact .seq (s.leaveReady_touches p) (.seq (ps := losingParts) (State.dropReservation_touches _ _)
    (.seq (ps := losingParts) (State.endOffer_touches _ _ _ _) (.seq (ps := losingParts)
      (State.setHandoff_touches _ _ _) (.seq (ps := losingParts) (State.loseHold_touches _ _)
        (h _ _ _)))))

end Sys2Proof.Machine
end

