-- ==== Sys2Proof/Laws/Intake.lean ====
section
/-!
SUPPORT. Sys2Proof/Laws/Intake.lean: what each operation of the Intake Unit, the Take Directory and the Station
Link Interface touches.
-/

namespace Sys2Proof.Machine

set_option Elab.async false

/-! ### Gaps, runs and frames -/

theorem State.clearDiscard_touches (s : State) (p : PortNo) : Touches [.intake] s (s.clearDiscard p) :=
  s.setIntake_touches p _

theorem State.discardAudio_touches (s : State) (p : PortNo) (take : Option Nat) :
    Touches [.intake, .out] s (s.discardAudio p take) :=
  .ite (fun _ => .refl _ _) (fun _ => .seq (s.setIntake_touches p _) (State.notify_touches _ _ _))

theorem State.endRun_touches (s : State) (p : PortNo) : Touches [.intake] s (s.endRun p) :=
  s.setIntake_touches p _

/-- What a cue placed by a port's event may touch. -/
abbrev gapParts : List Part := [.intake, .takes, .cues, .cueArrival]

theorem State.closeGap_touches (s : State) (p : PortNo) (take stop : Nat) :
    Touches gapParts s (s.closeGap p take stop) := by
  unfold State.closeGap
  split
  · exact .refl _ _
  · exact .seq (s.placeClosing_touches _ _ _ _ _) (State.setIntake_touches _ _ _)

theorem State.loseFrame_touches (s : State) (p : PortNo) (take time : Nat) (starving : Bool) :
    Touches [.intake, .out] s (s.loseFrame p take time starving) := by
  have h : ∀ (b : Bool) (t : State) (n : Notice), Touches [.out] t
      (if b then (t.notifyDesks n).notify p n else t) := fun b t n =>
    .ite (fun _ => .seq (State.notifyDesks_touches _ _) (State.notify_touches _ _ _))
      (fun _ => .refl _ _)
  exact .seq (s.setIntake_touches p _) (h _ _ _)

/-- What the storing of a record may touch. -/
abbrev recordParts : List Part :=
  [.intake, .takes, .chains, .cues, .cueArrival, .free, .directory, .arbiter, .lowFlag, .out]

theorem State.obtainOrLose_touches (s : State) (p : PortNo) (t : Take) (r : Rec) :
    Touches recordParts s (s.obtainOrLose p t r) := by
  unfold State.obtainOrLose
  split
  · exact (s.loseFrame_touches _ _ _ _).mono rfl
  · exact (s.loseFrame_touches _ _ _ _).mono rfl
  · exact .seq (s.allocate_touches _ _ _ _ _) (State.closeGap_touches _ _ _ _)

theorem State.storeRecord_touches (s : State) (p : PortNo) (t : Take) (r : Rec) :
    Touches recordParts s (s.storeRecord p t r) := by
  unfold State.storeRecord
  split
  · exact s.obtainOrLose_touches _ _ _
  · split
    · split
      · exact (s.setBuf_touches _ _ _).mono rfl
      · exact .seq (s.closeBlock_touches _ _) (State.obtainOrLose_touches _ _ _ _)
    · exact s.obtainOrLose_touches _ _ _

theorem State.attemptPause_touches (s : State) (p : PortNo) (take : Nat) :
    Touches gapParts s (s.attemptPause p take) := by
  unfold State.attemptPause
  split
  · exact .refl _ _
  · exact .ite (fun _ => .seq (s.setIntake_touches p _) (State.placeIfAdmitted_touches _ _ _ _ _ _))
      (fun _ => .refl _ _)

/-! ### Closing a take -/

/-- A change of a take's span flags, state or port. -/
theorem State.flagTake_touches (s : State) (n : Nat) (f : Take → Take) (h : ∀ t, (f t).id = t.id)
    (hc : ∀ t, (f t).chain = t.chain) (hq : ∀ t, (f t).cues = t.cues)
    (he : ∀ t, (f t).endTime = t.endTime) : Touches gapParts s (s.updTake n f) :=
  (s.updTake_touches'' n f h hc hq he).mono rfl

theorem State.closeOffRecord_touches (s : State) (t : Take) :
    Touches gapParts s (s.closeOffRecord t) :=
  .ite (fun _ => .seq (s.placeClosing_touches _ _ _ _ _) (State.flagTake_touches _ _ _ (by intro _; rfl)
    (by intro _; rfl) (by intro _; rfl) (by intro _; rfl))) (fun _ => .refl _ _)

theorem State.closeRestricted_touches (s : State) (t : Take) :
    Touches gapParts s (s.closeRestricted t) := by
  unfold State.closeRestricted
  split
  · exact .refl _ _
  · exact .seq (s.placeClosing_touches _ _ _ _ _) (State.flagTake_touches _ _ _ (by intro _; rfl)
      (by intro _; rfl) (by intro _; rfl) (by intro _; rfl))

theorem State.settlePort_touches (s : State) (t : Take) : Touches gapParts s (s.settlePort t) := by
  unfold State.settlePort
  split
  · exact .refl _ _
  · exact .seq (s.endRun_touches _) (State.closeGap_touches _ _ _ _)

theorem State.settleDiscard_touches (s : State) (t : Take) : Touches [.intake] s (s.settleDiscard t) := by
  unfold State.settleDiscard
  split
  · exact .refl _ _
  · exact s.clearDiscard_touches _

/-- What the close of a take may touch. -/
abbrev closeParts : List Part :=
  [.intake, .takes, .cues, .cueArrival, .directory, .arbiter, .arrivalSeq, .deferral, .pools,
    .handoff, .chunks, .out]

theorem State.closeTake_touches (s : State) (t : Take) (limit : Bool) :
    Touches closeParts s (s.closeTake t limit) := by
  have h : ∀ (b : Bool) (u : State), Touches gapParts u (if b then
      u.placeClosing t.id t.endTime .takeLimit none .auto else u) := fun b u =>
    .ite (fun _ => (u.placeClosing_touches _ _ _ _ _).mono rfl) (fun _ => .refl _ _)
  exact .seq (s.settlePort_touches t) (.seq (ps := closeParts) (State.closeOffRecord_touches _ _)
    (.seq (ps := closeParts) (State.closeRestricted_touches _ _) (.seq (ps := closeParts) (h limit _)
      (.seq (ps := closeParts) (State.closeOpenBlock_touches _ _) (.seq (ps := closeParts)
        (State.settleDiscard_touches _ _) (.seq (ps := closeParts)
          (State.flagTake_touches _ _ _ (by intro _; rfl) (by intro _; rfl) (by intro _; rfl)
            (by intro _; rfl)) (State.cutTest_touches _ _ _)))))))

/-! ### Audio frames -/

/-- What an audio frame may touch. -/
abbrev audioParts : List Part :=
  [.intake, .takes, .chains, .cues, .cueArrival, .free, .directory, .arbiter, .lowFlag, .arrivalSeq,
    .deferral, .pools, .handoff, .chunks, .out]

theorem State.applyFrame_touches (s : State) (p : PortNo) (t : Take) (r : Rec) :
    Touches audioParts s (s.applyFrame p t r) := by
  refine .ite (fun _ => .seq (s.closeTake_touches t true) (State.notify_touches _ _ _)) (fun _ => ?_)
  exact .seq (s.setIntake_touches p _) (.seq (ps := audioParts) (State.storeRecord_touches _ _ _ _)
    (.seq (ps := audioParts) (State.updTake_touches' _ _ _ (by intro _; rfl) (by intro _; rfl))
      (.seq (ps := audioParts) (State.attemptPause_touches _ _ _) (State.cutTest_touches _ _ _))))

theorem State.takeAudio_touches (s : State) (p : PortNo) (r : Rec) :
    Touches audioParts s (s.takeAudio p r) := by
  unfold State.takeAudio
  split
  · exact (s.discardAudio_touches _ _).mono rfl
  · exact .ite (fun _ => s.applyFrame_touches _ _ _) (fun _ => (s.discardAudio_touches _ _).mono rfl)

/-! ### Quiets, losses and link records -/

theorem State.pauseTake_touches (s : State) (p : PortNo) (t : Take) (place : State → State)
    (h : ∀ u, Touches gapParts u (place u)) : Touches gapParts s (s.pauseTake p t place) :=
  .seq (s.endRun_touches p) (.seq (ps := gapParts) (State.closeGap_touches _ _ _ _)
    (.seq (ps := gapParts) (h _) (.seq (ps := gapParts) (State.flagTake_touches _ _ _
      (by intro _; rfl) (by intro _; rfl) (by intro _; rfl) (by intro _; rfl))
      (State.clearDiscard_touches _ _))))

theorem State.placeLinkQuiet_touches (s : State) (t : Take) :
    Touches gapParts s (s.placeLinkQuiet t) := (s.placeClosing_touches _ _ _ _ _).mono rfl

/-- What the end of a recorder's readback or link may touch. -/
abbrev readerParts : List Part :=
  [.link, .ctx, .arbiter, .intake, .takes, .cues, .cueArrival]

theorem State.endReadback_touches (s : State) (p : PortNo) (t : Take) (origin : Origin)
    (quiet : Bool) : Touches readerParts s (s.endReadback p t origin quiet) := by
  have h : ∀ u : State, Touches gapParts u (if quiet then u.placeLinkQuiet t else u) := fun u =>
    .ite (fun _ => u.placeLinkQuiet_touches t) (fun _ => .refl _ _)
  exact .seq (s.removeCtx_touches p) (.seq (ps := readerParts) (State.placeClosing_touches _ _ _ _ _ _)
    (.seq (ps := readerParts) (h _) (.seq (ps := readerParts) (State.flagTake_touches _ _ _
      (by intro _; rfl) (by intro _; rfl) (by intro _; rfl) (by intro _; rfl))
      (.seq (ps := readerParts) (State.clearDiscard_touches _ _) (State.setLink_touches _ _ _)))))

theorem State.orphan_touches (s : State) (t : Take) : Touches gapParts s (s.orphan t) :=
  s.flagTake_touches _ _ (by intro _; rfl) (by intro _; rfl) (by intro _; rfl) (by intro _; rfl)

theorem State.recorderQuiet_touches (s : State) (p : PortNo) :
    Touches gapParts s (s.recorderQuiet p) := by
  unfold State.recorderQuiet
  split
  · exact .refl _ _
  · exact .ite (fun _ => s.pauseTake_touches _ _ _ (fun u => u.placeLinkQuiet_touches _))
      (fun _ => .refl _ _)

theorem State.readerQuiet_touches (s : State) (p : PortNo) :
    Touches readerParts s (s.readerQuiet p) := by
  unfold State.readerQuiet
  split
  · exact (s.removeCtx_touches p).mono rfl
  · exact s.endReadback_touches _ _ _ _

theorem State.recorderLoss_touches (s : State) (p : PortNo) :
    Touches gapParts s (s.recorderLoss p) := by
  unfold State.recorderLoss
  split
  · exact .refl _ _
  · next t _ =>
    have h : Touches gapParts s (if t.state = .recording then
        s.pauseTake p t (fun s => s.placeLinkQuiet t) else s) :=
      .ite (fun _ => s.pauseTake_touches _ _ _ (fun u => u.placeLinkQuiet_touches _))
        (fun _ => .refl _ _)
    exact h.trans (State.orphan_touches _ _)

theorem State.readerLoss_touches (s : State) (p : PortNo) : Touches readerParts s (s.readerLoss p) := by
  unfold State.readerLoss
  split
  · exact (s.removeCtx_touches p).mono rfl
  · exact .seq (s.endReadback_touches _ _ _ _) (State.orphan_touches _ _)

/-- What a quiet, a loss or a fault of a port may touch. -/
abbrev lossParts : List Part :=
  [.link, .ctx, .arbiter, .intake, .takes, .cues, .cueArrival, .log, .overrun, .pools, .handoff,
    .chunks, .out]

theorem State.quietEffects_touches (s : State) (p : PortNo) :
    Touches lossParts s (s.quietEffects p) := by
  unfold State.quietEffects
  split
  · exact (s.recorderQuiet_touches p).mono rfl
  · exact (s.readerQuiet_touches p).mono rfl
  · exact (s.typistQuiet_touches p).mono rfl
  · exact (s.removeCtx_touches p).mono rfl
  · exact .refl _ _

theorem State.lossEffects_touches (s : State) (p : PortNo) :
    Touches lossParts s (s.lossEffects p) := by
  unfold State.lossEffects
  split
  · exact (s.recorderLoss_touches p).mono rfl
  · exact (s.readerLoss_touches p).mono rfl
  · exact (s.typistLoss_touches p).mono rfl
  · exact (s.removeCtx_touches p).mono rfl
  · exact .refl _ _

theorem State.loseLink_touches (s : State) (p : PortNo) : Touches lossParts s (s.loseLink p) := by
  have h : Touches lossParts s (if (s.link p).isAttached then s.lossEffects p else s) :=
    .ite (fun _ => s.lossEffects_touches p) (fun _ => .refl _ _)
  exact h.trans ((State.setLink_touches _ _ _).mono rfl)

theorem State.faultPort_touches (s : State) (p : PortNo) : Touches lossParts s (s.faultPort p) :=
  .seq (s.loseLink_touches p) (State.updLink_touches _ _ _)

/-- A bad frame touches no chain, block, setting or command that waits. -/
theorem State.badFrameTaken_touches (s : State) (p : PortNo) :
    Touches lossParts s (s.badFrameTaken p) := by
  have h : ∀ u : State, Touches lossParts u (if (u.link p).errorCount = 255 then u.faultPort p else u) :=
    fun u => .ite (fun _ => u.faultPort_touches p) (fun _ => .refl _ _)
  exact .seq (s.updLink_touches p _) (.seq (ps := lossParts) (State.testErrors_touches _ _) (h _))

/-! ### Desk spans -/

theorem State.placeSpan_touches (s : State) (take start stop level : Nat) :
    Touches [.takes, .cues, .cueArrival] s (s.placeSpan take start stop level) :=
  .seq (s.placeCue_touches _ _ _ _ _) (State.placeCue_touches _ _ _ _ _ _)

theorem State.spoilExports_touches (s : State) (take : Nat) :
    Touches [.ctx, .takes] s (s.spoilExports take) := by
  unfold State.spoilExports
  have h := Touches.foldl (ps := [.ctx]) (fun s p => State.updCtx s p (fun c =>
      if c.kind = .exporting && c.take = take then { c with silenced := true } else c))
    (fun s p => State.updCtx_touches s p _ (by intro c; split <;> rfl)) allPorts s
  exact .seq h (State.updTake_touches'' _ _ _ (by intro _; rfl) (by intro _; rfl)
    (by intro _; rfl) (by intro _; rfl))

theorem State.raiseChunks_touches (s : State) (take start stop level : Nat) :
    Touches offerParts s (s.raiseChunks take start stop level) :=
  .foldl _ (fun s (c : Chunk) => State.raiseChunk_touches level s c.name) _ s

theorem State.recallOffered_touches (s : State) (x : Chunk) :
    Touches [.pools, .handoff, .chunks, .log, .overrun, .out] s (s.recallOffered x) := by
  unfold State.recallOffered
  split
  · exact .seq (s.updChunk_touches _ _) (State.logWrite_touches _ _)
  · exact .seq (s.endOffer_touches _ _ _) (.seq (ps := [.pools, .handoff, .chunks, .log, .overrun, .out])
      (State.logWrite_touches _ _) (.seq (ps := [.pools, .handoff, .chunks, .log, .overrun, .out])
        (State.rejoin_touches _ _ _) (State.offerPassOf_touches _ _)))

theorem State.recallHeld_touches (s : State) (x : Chunk) :
    Touches [.handoff, .chunks, .out] s (s.recallHeld x) := by
  unfold State.recallHeld
  refine .ite (fun _ => .refl _ _) (fun _ => ?_)
  dsimp only
  split
  · exact .seq (s.updChunk_touches _ _) (State.notify_touches _ _ _)
  · exact (s.updChunk_touches _ _).mono rfl

theorem State.repoolChunk_touches (s : State) (x : Chunk) (k : PoolId) :
    Touches offerParts s (s.repoolChunk x k) := by
  unfold State.repoolChunk
  split
  · exact .ite (fun _ => (s.updChunk_touches _ _).mono rfl) (fun _ =>
      .seq (s.endOffer_touches _ _ _) (.seq (ps := offerParts) (State.rejoin_touches _ _ _)
        (State.offerPassOf_touches _ _)))
  · exact (s.updChunk_touches _ _).mono rfl
  · exact (s.updChunk_touches _ _).mono rfl

end Sys2Proof.Machine
end

