-- ==== Sys2Proof/Certificates/Slice0/Obligations.lean ====
section
/-!
DEFINITION. Sys2Proof/Certificates/Slice0/Obligations.lean: the statements, each about every state unless it says
otherwise.  `s.goodFrame p` is the state after a good frame is taken on port `p`, which O10 states; a command's
statement says what it does from there.
-/

open Sys2Proof Sys2Proof.Machine

/-! ### The queue, reset, and the laws every step keeps -/

/-- A step takes the command at the front of the queue, the rest waiting behind it.  On an empty queue nothing
changes, which is the model's choice (log 1). -/
def Obligations.StepTakesFrontCommand : Prop :=
  (∀ (s : State) (c : Instr) (rest : List Instr), s.pending = c :: rest →
    step s = exec c { s with pending := rest }) ∧
  ∀ s : State, s.pending = [] → step s = .next s

/-- The three resets complete and leave the values of the reset tables (R22, R41, R58, R75, R93, R112, R131, R143,
R165).  The commands that wait, the level of the pin and the record of frames sent are the model's own (logs 1, 9
and 10). -/
def Obligations.ResetLeavesTheseValues : Prop :=
  ∀ s : State, ∃ t : State,
    exec .powerOnReset s = .next t ∧ exec .hardReset s = .next { t with resetHeld := false } ∧
    exec .resetPinAsserted s = .next { t with resetHeld := true } ∧
    t.pending = s.pending ∧ t.resetHeld = s.resetHeld ∧
    t.opState = .setup ∧ t.clock = 0 ∧ t.clearances = [] ∧ t.dropTime = 60 ∧
    (∀ p, t.link p = { state := .down, role := none, station := none, clearance := 0, mask := 0,
                       errorCount := 0, warning := false, faultLatch := false, quietTimer := false,
                       dropTimer := none, sendTimer := false }) ∧
    t.takes = [] ∧ t.takeIdCounter = 1 ∧ t.cueFree = 4096 ∧ t.cueArrival = 0 ∧
    (∀ p, t.intake p = { buf0 := .empty, buf1 := .empty, run := none, gap := none, starving := false,
                         discard := false }) ∧
    (∀ i (h : i < 32), t.filter[i] =
      { enabled := false, kind := .range, first := 0, second := 0,
        action := { target := some .a, turnaround := 86400, whole := false, floor := 0 } }) ∧
    t.defaultAction = { target := some .a, turnaround := 86400, whole := false, floor := 0 } ∧
    t.pauseThreshold = 150 ∧
    t.directory = [] ∧ t.free.toList = List.range 131072 ∧ t.arbiter.tenure = none ∧
    t.arbiter.writes = [] ∧ t.arbiter.reads = [] ∧ t.arbiter.releases = [] ∧
    t.arbiter.lastWrite = 15 ∧ t.arbiter.lastReader = 15 ∧ t.arbiter.lastTypist = 15 ∧
    t.arbiter.lastExport = 15 ∧ t.watermark = 1024 ∧ t.lowFlag = false ∧
    (∀ k, t.pool k = { length := 30000, window := 1500, leadIn := 500, ratio := 16,
                       discipline := .arrival, reoffer := true, ready := [] }) ∧
    t.arrivalSeq = 0 ∧ t.deferral = [] ∧ t.chunks = [] ∧
    (∀ p, t.handoff p = { offer := none, lapsed := none, reservation := none }) ∧
    t.offerTimeout = 30 ∧ t.grace = 600 ∧ t.log = [] ∧ t.overrun = false ∧ (∀ p, t.ctx p = none) ∧
    (∀ p, (t.port p).lastDamage = none) ∧ t.out = []

/-- While the reset pin is held, every command and event but the three resets is taken with no effect (R165 and
11.6; that the queue still empties is the model's choice, log 2). -/
def Obligations.HeldPartTakesNothing : Prop :=
  ∀ (s : State) (c : Instr), s.resetHeld = true → c ≠ .powerOnReset → c ≠ .hardReset →
    c ≠ .resetPinAsserted → exec c s = .next s

/-- The state after reset is well kept and keeps the law of the blocks. -/
def Obligations.ResetMeetsTheLaws : Prop := State.reset.wellKept ∧ State.reset.blocksKept

/-- Every step of every command keeps the tables canonical, the sizes, the ranges of the settings (R157) and the
port records lawful (9.1, R144, R146, R148, R150 to R152, R162). -/
def Obligations.StepKeepsTheStateWellKept : Prop :=
  ∀ s t : State, s.wellKept → step s = .next t → t.wellKept

/-- Every step keeps the number of blocks on the free list plus the number on all chains at 131,072 (R44), with
the distinct slots and ids of the take table it rests on (R1, R2). -/
def Obligations.StepKeepsTheLawOfBlocks : Prop :=
  ∀ s t : State, s.blocksKept → step s = .next t → t.blocksKept

/-- Whatever the command, and from every state: speech goes out only on a port cleared for the level at its take
time, or reading back that take (R123). -/
def Obligations.SpeechReachesOnlyClearedPorts : Prop :=
  ∀ (s t : State) (c : Instr), exec c s = .next t → c ≠ .powerOnReset → c ≠ .hardReset →
    c ≠ .resetPinAsserted →
    ∃ sent, t.out = s.out ++ sent ∧
      ∀ p f take time, (p, f) ∈ sent → f.speech? = some (take, time) → s.mayHear p take time

/-! ### Commands as bytes -/

/-- The operand bytes of every station command that chapter 11 lays out read back as that command, with every
operand at every value its field admits (R167, 11.3).  OPEN_TAKE, whose continue option it does not lay out, is left
out (log 6). -/
def Obligations.OperandBytesReadBack : Prop :=
  ∀ (c : Instr) (p : PortNo) (tag : Byte) (code : Nat) (operands : List Byte),
    c.wellFormed = true → Machine.Instr.portOf c = some p → commandBytes c = some (tag, code, operands) →
    code < 256 ∧ operands.length < 255 ∧ commandOf p tag code operands = some (some c)

/-- A frame of any kind, tag and body, sent by R166 and received by R145 and R166, is the frame that was sent: its
check holds, its escapes come off, and no start marker stands inside it.  A run of frames on a line, ended by a line
break, is heard as those frames in order; that a frame is judged when the next marker or break stands is the model's
reading (log 41). -/
def Obligations.FrameCrossesTheLine : Prop :=
  (∀ (p : PortNo) (kind : Nat) (tag : Byte) (body : List Byte), kind < 256 → body.length < 256 →
    ∃ rest, wireOf kind tag body = 0x7E#8 :: rest ∧ 0x7E#8 ∉ rest ∧
      received p rest = frameOf p kind tag body) ∧
  ∀ (p : PortNo) (frames : List (Nat × Byte × List Byte)),
    (∀ f ∈ frames, f.1 < 256 ∧ f.2.2.length < 256) →
    heard p none ((frames.flatMap (fun f => wireOf f.1 f.2.1 f.2.2)).map .byte ++ [.lineBreak]) =
      frames.map (fun f => frameOf p f.1 f.2.1 f.2.2) ++ [.lineBreak p]

/-! ### Links -/

/-- A good frame (R145, R146, R151), here an IDLE frame: the count falls by one, the warning flag follows it, an
attached port is ATTACHED with its quiet timer running, and a warning that is due is sent. -/
def Obligations.GoodFrameRecord : Prop :=
  ∀ (p : PortNo) (s : State), s.resetHeld = false → (s.link p).takesFrames = true →
    exec (.idle p) s = .next (s.goodFrame p) ∧
    (let l := s.link p
     let n := l.errorCount - 1
     let g := s.goodFrame p
     g.link p = { l with
       errorCount := n, warning := 96 ≤ n
       state := if l.isAttached then .attached else l.state
       quietTimer := l.isAttached || l.quietTimer
       dropTimer := if l.isAttached then none else l.dropTimer } ∧
     (∀ q, q ≠ p → g.link q = s.link q) ∧
     g.out = s.out ++ (if 96 ≤ n ∧ l.warning = false then s.noticeTo p (.linkWarning n) else []) ∧
     Touches [.link, .out] s g)

/-- A bad frame (R145, R146): the count rises by 8 to at most 255; below 255 nothing else changes but the warning,
and at 255 the port is FAULTED with its record cleared and its take or hold lost (R9, R102, R108, R141, R154). -/
def Obligations.BadFrameRecord : Prop :=
  ∀ (p : PortNo) (s : State), s.resetHeld = false → (s.link p).takesFrames = true →
    let l := s.link p
    let n := min 255 (l.errorCount + 8)
    ∃ t, exec (.badFrame p) s = .next t ∧ (∀ q, q ≠ p → t.link q = s.link q) ∧
      (n < 255 →
        t.link p = { l with errorCount := n, warning := 96 ≤ n } ∧
        t.out = s.out ++ (if 96 ≤ n ∧ l.warning = false then s.noticeTo p (.linkWarning n) else []) ∧
        Touches [.link, .out] s t) ∧
      (n = 255 →
        t.link p = { state := .faulted, role := none, station := none, clearance := 0, mask := 0,
                     errorCount := 255, warning := true, faultLatch := true, quietTimer := false,
                     dropTimer := none, sendTimer := false } ∧
        s.lossLeaves t p ∧ Touches lossParts s t)

/-- What carrier arrival, carrier loss and a line break leave (R144, R147): the port record, and on an attached port
the take or hold of its role as a loss leaves it (R9, R102, R108, R141, R154); no block, setting or other port record
changes.  That the warning flag stays with the error count of a port that loses its carrier is the model's reading
(log 29). -/
def Obligations.CarrierAndBreakRecords : Prop :=
  ∀ (p : PortNo) (s : State), s.resetHeld = false →
    let l := s.link p
    (l.state = .down → exec (.carrierArrives p) s = .next (s.setLink p
      (if l.faultLatch then { l with state := .faulted }
       else { l with state := .listening, sendTimer := true }))) ∧
    (l.state ≠ .down →
      (∃ t, exec (.carrierLost p) s = .next t ∧ (∀ q, q ≠ p → t.link q = s.link q) ∧
        t.link p = { l.cleared with state := .down, sendTimer := false } ∧ s.lossLeaves t p ∧
        (l.isAttached = true ∧ l.role = some .desk → t.ctx p = none) ∧
        (l.isAttached = false → Touches [.link] s t) ∧ Touches lossParts s t) ∧
      ∃ t, exec (.lineBreak p) s = .next t ∧ (∀ q, q ≠ p → t.link q = s.link q) ∧
        t.link p = { l.cleared with state := .listening, errorCount := 0, warning := false,
                                    faultLatch := false, sendTimer := true } ∧ s.lossLeaves t p ∧
        (l.isAttached = true ∧ l.role = some .desk → t.ctx p = none) ∧
        (l.isAttached = false → Touches [.link] s t) ∧ Touches lossParts s t)

/-- A FAULTED port ignores a frame (R147), and a command code that is not in the list is a good frame answered with
UNKNOWN on every port that takes frames (R155). -/
def Obligations.IgnoredAndUnknownFrames : Prop :=
  ∀ (p : PortNo) (tag : Byte) (code : Nat) (s : State), s.resetHeld = false →
    ((s.link p).state = .faulted → exec (.frameIgnoredFaulted p) s = .next s) ∧
    ((s.link p).takesFrames = true → exec (.commandUnknown p tag code) s = .next
      { s.goodFrame p with out := (s.goodFrame p).out ++
        [(p, .reply tag { code := code, result := .refused .unknown none, items := [] })] })

/-- A LISTENING port takes an ATTACH of a known role, a station id of 1 to 65,535 that is attached nowhere else,
and a mask within the list (R148). -/
def Obligations.AttachTakesThePort : Prop :=
  ∀ (p : PortNo) (tag : Byte) (station role mask : Nat) (r : Role) (s : State),
    s.resetHeld = false → (s.link p).state = .listening → announcedRole role = some r →
    1 ≤ station → station ≤ 65535 → mask < 2 ^ 18 →
    (∀ q, q ≠ p → (s.link q).isAttached = true → (s.link q).station ≠ some station) →
    let g := s.goodFrame p
    let level := (Table.find s.clearances station).getD 0
    ∃ t, exec (.attach p tag station role mask) s = .next t ∧
      t.link p = { g.link p with state := .attached, role := some r, station := some station,
                                 clearance := level, mask := mask, quietTimer := true } ∧
      (∀ q, q ≠ p → t.link q = s.link q) ∧
      t.intake p = { s.intake p with discard := false } ∧ (∀ q, q ≠ p → t.intake q = s.intake q) ∧
      t.out = g.out ++ [(p, .reply tag { code := 0x01, result := .ok,
                                         items := [.port p, .role (some r), .level level] })] ∧
      Touches [.link, .intake, .out] s t

/-- DETACH frees an attached port of any role, with the effects of a loss on its take or hold first (R9, R102, R108,
R141, R154) and the reply last (R149); SET_MASK replaces its mask, and refuses a bit beyond the eighteen notices
(R156, R167). -/
def Obligations.DetachAndMaskOnAttachedPort : Prop :=
  ∀ (p : PortNo) (tag : Byte) (s : State), s.resetHeld = false → (s.link p).isAttached = true →
    let g := s.goodFrame p
    (∃ t sent, exec (.detach p tag) s = .next t ∧
      t.link p = { (g.link p).cleared with state := .listening } ∧
      (∀ q, q ≠ p → t.link q = s.link q) ∧ s.lossLeaves t p ∧
      ((s.link p).role = some .desk → t.ctx p = none) ∧
      t.out = g.out ++ sent ++ [(p, .reply tag { code := 0x02, result := .ok, items := [] })] ∧
      Touches lossParts s t) ∧
    (∀ mask, mask < 2 ^ 18 → exec (.setMask p tag mask) s = .next
      { g.setLink p { g.link p with mask := mask } with
        out := g.out ++ [(p, .reply tag { code := 0x03, result := .ok, items := [.mask mask] })] }) ∧
    ∀ mask, 2 ^ 18 ≤ mask → exec (.setMask p tag mask) s = .next
      { g with out := g.out ++ [(p, .reply tag
          { code := 0x03, result := .refused .noSuch none, items := [] })] }

/-- The three link timers: the quiet timer makes the port QUIET with its drop timer started (R151, R153), ending a
readback with READBACK_END and LINK_QUIET (R140) and stopping the playback of a hold that stands (R99, R125), the
drop timer drops the link (R152, R154), and the send timer sends IDLE (R150).  The model's readings: the warning flag
stays with the error count of a dropped port (log 29), a reader without a take keeps its role (log 28), and the pacing
of a stopped context is on data (log 37). -/
def Obligations.LinkTimersRunOut : Prop :=
  ∀ (p : PortNo) (s : State), s.resetHeld = false →
    let l := s.link p
    (l.state = .attached → l.quietTimer = true →
      ∃ t, exec (.quietTimerExpiry p) s = .next t ∧
        t.link p = { l with
          state := .quiet, quietTimer := false, dropTimer := some s.dropTime
          role := if l.role = some .reader ∧ (s.linkTake p).isSome then some .recorder else l.role } ∧
        (∀ q, q ≠ p → t.link q = s.link q) ∧
        (l.role = some .desk → t.ctx p = none) ∧
        (l.role = some .typist →
          (∀ k, p ∉ (t.pool k).ready) ∧ (t.handoff p).offer = none ∧
          (t.handoff p).reservation = none) ∧
        (∀ u x, l.role = some .reader → s.linkTake p = some u → s.takeIds.Nodup → s.ctx p = some x →
          x.take = u.id →
          let h := s.placeClosing u.id u.endTime .readbackEnd none .auto
          t.ctx p = none ∧ (t.intake p).discard = false ∧
          t.take? u.id = some { u with
            state := .paused, readers := u.readers - 1
            cues := h.withCueIf h.admitsClosing u.endTime .linkQuiet none .auto
              (s.withCueIf s.admitsClosing u.endTime .readbackEnd none .auto u.cues) }) ∧
        (∀ c x, l.role = some .typist → s.heldBy p = some c → s.chunk? c.name = some c →
          (s.chunks.map (·.name)).Nodup → (s.handoff p).offer.map (·.chunk) ≠ some c.name →
          s.ctx p = some x →
          t.chunk? c.name = some c ∧ t.ctx p = some (if x.mode = .stopped then x
            else { x with mode := .stopped, pacing := .onData, outstanding := false })) ∧
        Touches lossParts s t) ∧
    (l.state = .quiet → l.dropTimer.isSome = true →
      ∃ t, exec (.dropTimerExpiry p) s = .next t ∧ t.link p = { l.cleared with state := .listening } ∧
        (∀ q, q ≠ p → t.link q = s.link q) ∧ s.lossLeaves t p ∧ Touches lossParts s t) ∧
    (l.takesFrames = true → l.sendTimer = true →
      exec (.sendTimerExpiry p) s = .next { s with out := s.out ++ [(p, .idle)] })

/-- A RECORDING take whose link goes QUIET is PAUSED with LINK_QUIET at E behind the GAP of a gap that was tracked
(R8, R37); when its carrier is lost instead it is also orphaned (R9). -/
def Obligations.RecorderQuietAndLoss : Prop :=
  ∀ (p : PortNo) (s : State) (t : Take), s.hears p .recorder → (s.link p).state = .attached →
    (s.link p).quietTimer = true → s.linkTake p = some t → t.state = .recording → s.takeIds.Nodup →
    let h := s.gapPlaced p t.id t.endTime
    let cues := h.withCueIf h.admitsClosing t.endTime .linkQuiet none .auto (h.cuesOf t.id)
    (∃ v, exec (.quietTimerExpiry p) s = .next v ∧
      v.take? t.id = some { t with state := .paused, cues := cues } ∧
      (v.intake p).run = none ∧ (v.intake p).gap = none ∧ (v.intake p).discard = false) ∧
    ∃ v, exec (.carrierLost p) s = .next v ∧
      v.take? t.id = some { t with state := .paused, cues := cues, recPort := none }

/-! ### Takes and cues -/

/-- OPEN_TAKE without the continue option, in RUN, on a recorder link with no take, with a record free (R1, R24):
the whole of what changes.  The refusals of R23 and R1 stand beside it. -/
def Obligations.OpenTakeAllocatesRecord : Prop :=
  ∀ (p : PortNo) (tag : Byte) (matter : Nat) (s : State), s.hears p .recorder →
    let g := s.goodFrame p
    let answer : Result → List Item → List (PortNo × Frame) := fun r items =>
      g.out ++ [(p, .reply tag { code := 0x10, result := r, items := items })]
    (s.opState = .setup → exec (.openTake p tag matter) s = .next
      { g with out := answer (.refused .notRunning none) [] }) ∧
    (s.opState = .run → (s.linkTake p).isSome = true → exec (.openTake p tag matter) s = .next
      { g with out := answer (.refused .wrongState none) [] }) ∧
    (s.opState = .run → s.linkTake p = none → s.freeSlot = none →
      exec (.openTake p tag matter) s = .next
        { g with out := answer (.refused .tableFull none) [] }) ∧
    ∀ slot, s.opState = .run → s.linkTake p = none → s.freeSlot = some slot →
      exec (.openTake p tag matter) s = .next
        { g.setIntake p { s.intake p with run := none, gap := none, starving := false, discard := false } with
          takes := Table.put s.takes slot
            { id := s.nextTakeId, matter := matter, action := s.actionFor matter, state := .recording
              recPort := some p, station := (s.link p).station.getD 0, openedAt := s.clock
              closedAt := none, endTime := 0, chain := [], cues := [], offRecordOpen := false
              restrictOpen := none, cursor := 0, nextOrdinal := 1, deferred := false, chunksMade := 0
              chunksFinished := 0, damagedSeen := 0, exported := false, readers := 0 }
          takeIdCounter := if s.nextTakeId < 65535 then s.nextTakeId + 1 else 1
          out := answer .ok [.takeId s.nextTakeId] }

/-- The id of a new take is the first from the counter on, passing from 65,535 to 1, that no record has (R2). -/
def Obligations.TakeIdIsFirstUnused : Prop :=
  ∀ s : State, 1 ≤ s.takeIdCounter → s.takeIdCounter ≤ 65535 → s.takes.length ≤ 63 →
    ∃ k ≤ 63, s.nextTakeId = bumpId^[k] s.takeIdCounter ∧ s.nextTakeId ∉ s.takeIds ∧
      1 ≤ s.nextTakeId ∧ s.nextTakeId ≤ 65535 ∧ ∀ j < k, bumpId^[j] s.takeIdCounter ∈ s.takeIds

/-- OPEN_TAKE with the continue option re-adopts an orphaned take of the station (R10); its open block stays on its
port and closes at once when it stands on another (R39).  That the discard flag stands through it is the model's
choice (log 17). -/
def Obligations.ContinueReadoptsTheOrphan : Prop :=
  ∀ (p : PortNo) (tag : Byte) (matter take : Nat) (s : State) (t : Take), s.hears p .recorder →
    s.opState = .run → s.linkTake p = none → s.take? take = some t → t.isOrphaned = true →
    (s.link p).station = some t.station →
    ∃ v, exec (.openTakeContinue p tag matter take) s = .next v ∧
      v.take? take = some { t with recPort := some p } ∧
      (∀ n, n ≠ take → v.take? n = s.take? n) ∧
      v.out = (s.goodFrame p).out ++
        [(p, .reply tag { code := 0x10, result := .ok, items := [.takeId take] })] ∧
      (s.openPort take = none ∨ s.openPort take = some p → Touches [.link, .takes, .out] s v) ∧
      (∀ q k b start recs, s.openPort take = some q → q ≠ p → s.openBuf q take = some k →
        (s.intake q).buf k = .assembling b take start recs →
        (v.intake q).buf k = .writing b take start recs) ∧
      Touches [.link, .takes, .intake, .directory, .arbiter, .out] s v

/-- A filter element's test of a matter code (R26). -/
def Obligations.FilterElementMatches : Prop :=
  ∀ (e : FilterElem) (code : Nat), e.first < 2 ^ 32 → e.second < 2 ^ 32 → code < 2 ^ 32 →
    (e.matches code = true ↔ e.enabled = true ∧
      match e.kind with
      | .range => e.first ≤ code ∧ code ≤ e.second
      | .mask => ∀ i < 32, (code.testBit i && e.second.testBit i) =
          (e.first.testBit i && e.second.testBit i)
      | .pair => code = e.first ∨ code = e.second) ∧
    (e.kind = .range → e.second < e.first → e.matches code = false) ∧
    (e.kind = .mask → e.second = 0 → e.enabled = true → e.matches code = true) ∧
    (e.kind = .pair → e.first = e.second → e.enabled = true →
      (e.matches code = true ↔ code = e.first))

/-- PAUSE of a RECORDING take, its cue behind the GAP of a gap that was tracked, and RESUME of a PAUSED one (R5,
R13, R37, R38). A PAUSE may be followed by cuts at once (R12), so the take's split state and its chunks stand apart.
That the reply stands behind what a cut sends to other ports is the model's reading (log 34). -/
def Obligations.PauseAndResumeTheTake : Prop :=
  ∀ (p : PortNo) (tag : Byte) (s : State) (t : Take), s.hears p .recorder → s.linkTake p = some t →
    s.takeIds.Nodup →
    let h := s.gapPlaced p t.id t.endTime
    (t.state = .recording → ∃ v u sent, exec (.pause p tag) s = .next v ∧ v.take? t.id = some u ∧
      u.apartFromCuts t = { t with
        state := .paused
        cues := h.withCueIf h.admitsOrdinary t.endTime .pause none .recorder (h.cuesOf t.id) } ∧
      (∀ n, n ≠ t.id → v.take? n = s.take? n) ∧
      v.intake p = { s.intake p with
        run := none, gap := none, discard := false
        starving := (s.intake p).starving && (s.intake p).gap.isNone } ∧
      v.out = (s.goodFrame p).out ++ sent ++
        [(p, .reply tag { code := 0x11, result := .ok, items := [] })] ∧
      Touches ([.link, .intake, .cues, .cueArrival] ++ cutParts) s v) ∧
    (t.state = .paused → ∃ v, exec (.resume p tag) s = .next v ∧
      v.take? t.id = some { t with
        state := .recording
        cues := s.withCueIf s.admitsOrdinary t.endTime .resume none .recorder t.cues } ∧
      (∀ n, n ≠ t.id → v.take? n = s.take? n) ∧
      v.out = (s.goodFrame p).out ++ [(p, .reply tag { code := 0x12, result := .ok, items := [] })] ∧
      Touches [.link, .takes, .cues, .cueArrival, .out] s v)

/-- CLOSE_TAKE by the recorder of a RECORDING or PAUSED take (R6) and by a desk of an orphaned one (R7): the closing
cues stand in the order of R6's steps, the take is CLOSED at the clock's value with its spans ended, its port is
absent, its open block is being written, and a cut test of it comes last, before the reply (O60 states the test).
That the closing cues run no cut test of their own before it (log 16), and that the reply stands behind the test
(log 34), are the model's readings. -/
def Obligations.CloseTakeClosesTheTake : Prop :=
  ∀ (p : PortNo) (tag : Byte) (s : State) (t : Take) (c : Instr) (code : Nat),
    s.takeIds.Nodup → s.take? t.id = some t →
    (c = .closeTake p tag ∧ code = 0x13 ∧ s.hears p .recorder ∧ s.linkTake p = some t ∧
        t.state ≠ .readback) ∨
      (c = .closeTakeDesk p tag t.id ∧ code = 0x40 ∧ s.hears p .desk ∧ t.isOrphaned = true) →
    ∃ v u sent, exec c s = .next v ∧ v.take? t.id = some u ∧
      u.apartFromCuts t = { t with
        state := .closed, closedAt := some s.clock, recPort := none, offRecordOpen := false,
        restrictOpen := none, cues := (s.closingCues t false).cuesOf t.id } ∧
      (∀ e ∈ t.cues, e ∈ u.cues) ∧ (∀ n, n ≠ t.id → v.take? n = s.take? n) ∧
      (∃ w, s.readyToCut w ∧ w.take? t.id = some (u.apartFromCuts t) ∧
        v = { w.cutTest t.id false with out := (w.cutTest t.id false).out ++
          [(p, .reply tag { code := code, result := .ok, items := [] })] }) ∧
      (∀ q k b start recs, s.openPort t.id = some q → s.openBuf q t.id = some k →
        (s.intake q).buf k = .assembling b t.id start recs →
        (v.intake q).buf k = .writing b t.id start recs) ∧
      (∀ q, t.recPort = some q → (v.intake q).run = none ∧ (v.intake q).gap = none ∧
        (v.intake q).discard = false) ∧
      v.out = (s.goodFrame p).out ++ sent ++
        [(p, .reply tag { code := code, result := .ok, items := [] })] ∧
      Touches (.link :: closeParts) s v

/-- MARK places its cue at E, a speaker number clamped to 0..63 (R25), and is refused with the pool at its reserve
(R13). That the reply stands behind what a cut sends to other ports is the model's reading (log 34). -/
def Obligations.MarkPlacesTheCue : Prop :=
  ∀ (p : PortNo) (tag : Byte) (kind number : Nat) (k : CueKind) (s : State) (t : Take),
    s.hears p .recorder → s.linkTake p = some t → (t.state = .recording ∨ t.state = .paused) →
    s.takeIds.Nodup → markKind kind = some k →
    let n := if k = .speaker then min 63 number else number
    let g := s.goodFrame p
    (64 < s.cueFree → ∃ v u sent, exec (.mark p tag kind number) s = .next v ∧
      v.take? t.id = some u ∧
      u.apartFromCuts t = { t with cues := s.withCue t.endTime k (some n) .recorder t.cues } ∧
      (∀ m, m ≠ t.id → v.take? m = s.take? m) ∧
      v.cueArrival = min (s.cueArrival + 1) 4294967295 ∧
      v.out = g.out ++ sent ++ [(p, .reply tag (if n = number
        then { code := 0x14, result := .ok, items := [] }
        else { code := 0x14, result := .clamped, items := [.number n] }))] ∧
      Touches ([.link, .cues, .cueArrival] ++ cutParts) s v) ∧
    (s.cueFree ≤ 64 → exec (.mark p tag kind number) s = .next { g with out := g.out ++
      [(p, .reply tag { code := 0x14, result := .refused .tableFull none, items := [] })] })

/-- OFF_RECORD_BEGIN and RESTRICT_BEGIN open their span with a begin cue at E, the level clamped to 1..3 (R16, R17).
That the reply stands behind what a cut sends to other ports is the model's reading (log 34). -/
def Obligations.SpanBeginsOpenTheSpan : Prop :=
  ∀ (p : PortNo) (tag : Byte) (level : Nat) (s : State) (t : Take),
    s.hears p .recorder → s.linkTake p = some t → (t.state = .recording ∨ t.state = .paused) →
    s.takeIds.Nodup → 64 < s.cueFree →
    let l := min 3 (max 1 level)
    let g := s.goodFrame p
    (t.offRecordOpen = false → ∃ v u sent, exec (.offRecordBegin p tag) s = .next v ∧
      v.take? t.id = some u ∧
      u.apartFromCuts t = { t with
        offRecordOpen := true
        cues := s.withCue t.endTime .offRecordBegin none .recorder t.cues } ∧
      (∀ m, m ≠ t.id → v.take? m = s.take? m) ∧
      v.out = g.out ++ sent ++ [(p, .reply tag { code := 0x15, result := .ok, items := [] })] ∧
      Touches ([.link, .cues, .cueArrival] ++ cutParts) s v) ∧
    (t.restrictOpen = none → ∃ v u sent, exec (.restrictBegin p tag level) s = .next v ∧
      v.take? t.id = some u ∧
      u.apartFromCuts t = { t with
        restrictOpen := s.lowestCue
        cues := s.withCue t.endTime .restrictBegin (some l) .recorder t.cues } ∧
      (∀ m, m ≠ t.id → v.take? m = s.take? m) ∧
      v.out = g.out ++ sent ++ [(p, .reply tag (if l = level
        then { code := 0x17, result := .ok, items := [] }
        else { code := 0x17, result := .clamped, items := [.level l] }))] ∧
      Touches ([.link, .cues, .cueArrival] ++ cutParts) s v)

/-- OFF_RECORD_END and RESTRICT_END end the open span with an end cue at E that names its begin (R16, R17). That the
reply stands behind what a cut sends to other ports is the model's reading (log 34). -/
def Obligations.SpanEndsCloseTheSpan : Prop :=
  ∀ (p : PortNo) (tag : Byte) (s : State) (t : Take),
    s.hears p .recorder → s.linkTake p = some t → (t.state = .recording ∨ t.state = .paused) →
    s.takeIds.Nodup → 1 ≤ s.cueFree →
    let g := s.goodFrame p
    (t.offRecordOpen = true → ∃ v u sent, exec (.offRecordEnd p tag) s = .next v ∧
      v.take? t.id = some u ∧
      u.apartFromCuts t = { t with
        offRecordOpen := false
        cues := s.withCue t.endTime .offRecordEnd t.openOffRecord .recorder t.cues } ∧
      (∀ m, m ≠ t.id → v.take? m = s.take? m) ∧
      v.out = g.out ++ sent ++ [(p, .reply tag { code := 0x16, result := .ok, items := [] })] ∧
      Touches ([.link, .cues, .cueArrival] ++ cutParts) s v) ∧
    (∀ i, t.restrictOpen = some i → ∃ v u sent, exec (.restrictEnd p tag) s = .next v ∧
      v.take? t.id = some u ∧
      u.apartFromCuts t = { t with
        restrictOpen := none
        cues := s.withCue t.endTime .restrictEnd (some i) .recorder t.cues } ∧
      (∀ m, m ≠ t.id → v.take? m = s.take? m) ∧
      v.out = g.out ++ sent ++ [(p, .reply tag { code := 0x18, result := .ok, items := [] })] ∧
      Touches ([.link, .cues, .cueArrival] ++ cutParts) s v)

/-- A cue joins its list after the last entry at or before its time, and a list in order of time and arrival stays
in that order (R11). -/
def Obligations.CueListKeepsItsOrder : Prop :=
  ∀ (new : Cue) (cues : List Cue),
    (∃ a b, cues = a ++ b ∧ insertCue new cues = a ++ new :: b ∧ (∀ e ∈ b, new.time < e.time) ∧
      ∀ e, a.getLast? = some e → e.time ≤ new.time) ∧
    (cues.Pairwise (fun x y => x.time < y.time ∨ (x.time = y.time ∧ x.arrival ≤ y.arrival)) →
      (∀ e ∈ cues, e.arrival ≤ new.arrival) →
      (insertCue new cues).Pairwise
        (fun x y => x.time < y.time ∨ (x.time = y.time ∧ x.arrival ≤ y.arrival)))

/-! ### Readback -/

/-- READBACK_BEGIN of a PAUSED take on a link that was not QUIET (R132 to R134): the take is in READBACK, the port is
a READER with a stopped context over the take, and the reply shows where it stands. -/
def Obligations.ReadbackBeginsOnThePausedTake : Prop :=
  ∀ (p : PortNo) (tag : Byte) (form value : Nat) (k : TargetForm) (named : Nat) (below : Bool)
    (s : State) (t : Take),
    s.hears p .recorder → (s.link p).state = .attached → s.linkTake p = some t → t.state = .paused →
    s.takeIds.Nodup → t.endTime % 2 = 0 → targetForm form = some k →
    t.target k value = some (named, below) →
    let g := s.goodFrame p
    let cursor := min (named / 2 * 2) t.endTime
    ∃ v, exec (.readbackBegin p tag form value) s = .next v ∧
      v.take? t.id = some { t with
        state := .readback, readers := t.readers + 1
        cues := s.withCueIf s.admitsOrdinary t.endTime .readbackBegin none .recorder t.cues } ∧
      (∀ m, m ≠ t.id → v.take? m = s.take? m) ∧
      v.link p = { g.link p with role := some .reader } ∧
      v.ctx p = some
        { take := t.id, kind := .reader, startBound := 0, endBound := t.endTime, cursor := cursor
          mode := .stopped, pacing := .onData, stack := [], readAhead := [], outstanding := false
          stretch := false, damagedCount := 0, silenced := false, closedAtBegin := false } ∧
      (v.intake p).discard = false ∧
      v.out = g.out ++ [(p, .reply tag
        { code := 0x19, result := if below || cursor ≠ named then .clamped else .ok
          items := [.takeId t.id, .time cursor, .time t.endTime,
            .cueIndex (if s.admitsOrdinary then s.lowestCue else none)] })] ∧
      Touches [.link, .intake, .ctx, .damage, .takes, .cues, .cueArrival, .out] s v

/-- READBACK_END (R139): the context is removed, the take is PAUSED with READBACK_END at E, and the port is a
RECORDER again. -/
def Obligations.ReadbackEndsInPause : Prop :=
  ∀ (p : PortNo) (tag : Byte) (s : State) (t : Take) (x : Ctx),
    s.hears p .reader → s.linkTake p = some t → t.state = .readback → s.takeIds.Nodup →
    s.ctx p = some x → x.take = t.id →
    let g := s.goodFrame p
    ∃ v, exec (.readbackEnd p tag) s = .next v ∧
      v.take? t.id = some { t with
        state := .paused, readers := t.readers - 1
        cues := s.withCueIf s.admitsClosing t.endTime .readbackEnd none .recorder t.cues } ∧
      (∀ m, m ≠ t.id → v.take? m = s.take? m) ∧
      v.link p = { g.link p with role := some .recorder } ∧ v.ctx p = none ∧
      (v.intake p).discard = false ∧
      v.out = g.out ++ [(p, .reply tag
        { code := 0x1A, result := .ok
          items := [.takeId t.id, .cueIndex (if s.admitsClosing then s.lowestCue else none)] })] ∧
      Touches [.link, .intake, .ctx, .arbiter, .takes, .cues, .cueArrival, .out] s v

/-! ### Audio -/

/-- A silence count above 250 is taken as 250 and a count of 0 is ignored (R31): the frame has the effect of the
frame of count 250, and of a good frame alone, in every state of the part. -/
def Obligations.SilenceCountsAreClamped : Prop :=
  (∀ (p : PortNo) (n : Nat) (s : State), 250 < n →
    exec (.audioSilence p n) s = exec (.audioSilence p 250) s) ∧
  ∀ (p : PortNo) (s : State), exec (.audioSilence p 0) s = exec (.idle p) s

/-- A frame of a RECORDING take below the take limit advances E, and its record joins the open block, or obtains the
block at the head of the free list, which ends a gap with its GAP cue, or is lost with the gap noted and, in a store
without blocks, one STORE_EMPTY (R32, R33, R35, R37, R45). The silence run follows the frame, and the AUTO_PAUSE it
reaches stands once, in its middle (R34). A cut test comes last (R32 step 4; O60 states the test). That the
AUTO_PAUSE runs no cut test of its own (log 16) is the model's reading, and that STORE_EMPTY goes to the desks in
ascending port order and then to the recorder (log 25) is the model's choice. -/
def Obligations.AudioIsStoredOrLost : Prop :=
  ∀ (p : PortNo) (c : Instr) (r : Rec) (s : State) (t : Take), AudioFrame p c r →
    s.hears p .recorder → s.linkTake p = some t → t.state = .recording → s.takeIds.Nodup →
    t.endTime + r.duration ≤ 16777214 →
    let i := s.intake p
    let run : Option Run := match r with
      | .speech _ => none
      | .silence n => some (match i.run with
        | none => { start := t.endTime, length := 2 * n, attempted := false }
        | some x => { x with length := x.length + 2 * n })
    let reached : Bool := run.any (fun x => !x.attempted && s.pauseThreshold ≤ x.length)
    let middle := (run.map (fun x => (x.start + s.pauseThreshold / 2) / 2 * 2)).getD 0
    let paused : State → List Cue := fun h =>
      h.withCueIf (reached && h.admitsOrdinary) middle .autoPause none .auto (h.cuesOf t.id)
    let h := s.gapPlaced p t.id t.endTime
    ∃ v u, exec c s = .next v ∧ v.take? t.id = some u ∧ (∀ m, m ≠ t.id → v.take? m = s.take? m) ∧
      (∀ e ∈ t.cues, e ∈ u.cues) ∧ Touches (.link :: audioParts) s v ∧
      (v.intake p).run = run.map (fun x => { x with attempted := x.attempted || reached }) ∧
      (∃ w, s.readyToCut w ∧ w.take? t.id = some (u.apartFromCuts t) ∧ v = w.cutTest t.id false) ∧
      let obtained : Bool → Prop := fun k => ∃ b rest, s.free.pop = some (b, rest) ∧
        (v.intake p).buf k = .assembling b t.id t.endTime [r] ∧ v.free = rest ∧
        Table.find v.directory b = some
          { state := .assembling, owner := t.id, port := some p, start := t.endTime
            duration := none, bytesUsed := none, check := none } ∧
        (v.intake p).gap = none ∧ (v.intake p).starving = (i.starving && i.gap.isNone) ∧
        u.apartFromCuts t = { t with
          endTime := t.endTime + r.duration, chain := t.chain ++ [(b, t.endTime)], cues := paused h }
      let lost : Bool → Prop := fun starving => v.free = s.free ∧
        (v.intake p).gap = some (i.gap.getD t.endTime) ∧
        (v.intake p).starving = (i.starving || starving) ∧
        (∃ sent, v.out = (s.goodFrame p).out ++ (if starving && !i.starving then
          (s.goodFrame p).deskNotices (.storeEmpty t.id (i.gap.getD t.endTime)) ++
            (s.goodFrame p).noticeTo p (.storeEmpty t.id (i.gap.getD t.endTime)) else []) ++ sent) ∧
        u.apartFromCuts t = { t with endTime := t.endTime + r.duration, cues := paused s }
      (∀ k b start recs recs', s.openBuf p t.id = some k →
        i.buf k = .assembling b t.id start recs → appendRec recs r = some recs' →
        (v.intake p).buf k = .assembling b t.id start recs' ∧
        u.apartFromCuts t = { t with endTime := t.endTime + r.duration, cues := paused s }) ∧
      (∀ k b start recs, s.openBuf p t.id = some k →
        i.buf k = .assembling b t.id start recs → appendRec recs r = none →
        (v.intake p).buf k = .writing b t.id start recs ∧
        (i.buf (!k) = .empty → s.free.pop.isSome = true → obtained (!k)) ∧
        (i.buf (!k) ≠ .empty → lost false) ∧
        (i.buf (!k) = .empty → s.free.pop = none → lost true)) ∧
      (s.openBuf p t.id = none →
        (∀ k, s.emptyBuf p = some k → s.free.pop.isSome = true → obtained k) ∧
        (s.emptyBuf p = none → lost false) ∧
        ((s.emptyBuf p).isSome = true → s.free.pop = none → lost true))

/-- A frame of a recorder or reader link with no RECORDING take is discarded, the recorder told once (R30). -/
def Obligations.AudioIsDiscardedOnce : Prop :=
  ∀ (p : PortNo) (c : Instr) (r : Rec) (s : State), AudioFrame p c r →
    (s.hears p .recorder ∨ s.hears p .reader) →
    (∀ t, s.linkTake p = some t → t.state ≠ .recording) →
    let g := s.goodFrame p
    ((s.intake p).discard = true → exec c s = .next g) ∧
    ((s.intake p).discard = false → exec c s = .next
      { g.setIntake p { s.intake p with discard := true } with
        out := g.out ++ g.noticeTo p (.audioDiscarded ((s.linkTake p).map (·.id))) })

/-- A frame that would carry E past 16,777,214 is discarded whole and closes the take at its E, TAKE_LIMIT behind its
other closing cues (R6), and the recorder is told (R40).  That the close sends no AUDIO_DISCARDED with its TAKE_LIMIT is the model's choice (log 18). -/
def Obligations.TakeLimitClosesTheTake : Prop :=
  ∀ (p : PortNo) (c : Instr) (r : Rec) (s : State) (t : Take), AudioFrame p c r →
    s.hears p .recorder → s.linkTake p = some t → t.state = .recording → s.takeIds.Nodup →
    16777214 < t.endTime + r.duration →
    ∃ v u sent, exec c s = .next v ∧ v.take? t.id = some u ∧
      u.apartFromCuts t = { t with
        state := .closed, closedAt := some s.clock, recPort := none, offRecordOpen := false,
        restrictOpen := none, cues := (s.closingCues t true).cuesOf t.id } ∧
      (∀ e ∈ t.cues, e ∈ u.cues) ∧
      (4 ≤ s.cueFree → ∃ e ∈ u.cues, e.kind = .takeLimit ∧ e.time = t.endTime) ∧
      v.out = (s.goodFrame p).out ++ sent ++
        (s.goodFrame p).noticeTo p (.takeLimit t.id t.endTime) ∧
      Touches (.link :: closeParts) s v

/-! ### Players -/

/-- STEP_BACK, STEP_AHEAD, SEEK and JUMP_TIME (R116, R118, R120): the time named, rounded down to even and clamped
to the bounds; JUMP_TIME also pushes the cursor, the newest eight kept. That a move to the end bound leaves the
pacing on data is the model's choice (log 37). -/
def Obligations.TimeMovesReachTheirTarget : Prop :=
  ∀ (p : PortNo) (tag : Byte) (n : Nat) (s : State) (x : Ctx), s.plays p x →
    let m := n / 2 * 2
    let at_ : Nat → Nat := fun time => clamp x.startBound x.endBound time
    let back := at_ (x.cursor - m)
    let ahead := at_ (x.cursor + m)
    (∃ v, exec (.stepBack p tag n) s = .next v ∧
      s.movesTo v p tag 0x22 x back x.stack (m ≠ n || x.cursor < m || back ≠ x.cursor - m) []) ∧
    (∃ v, exec (.stepAhead p tag n) s = .next v ∧
      s.movesTo v p tag 0x23 x ahead x.stack (m ≠ n || ahead ≠ x.cursor + m) []) ∧
    (∃ v, exec (.seek p tag n) s = .next v ∧
      s.movesTo v p tag 0x24 x (at_ m) x.stack (at_ m ≠ n) []) ∧
    ∃ v, exec (.jumpTime p tag n) s = .next v ∧
      s.movesTo v p tag 0x26 x (at_ m) ((x.cursor :: x.stack).take 8) (at_ m ≠ n) []

/-- SEEK_CUE, JUMP_CUE and BACKTRACK (R117, R118, R120), with the refusal where no cue or value is found. The order
of the values in the reply of SEEK_CUE (log 23), and that a move to the end bound leaves the pacing on data (log
37), are the model's choices. -/
def Obligations.CueMovesReachTheirCue : Prop :=
  ∀ (p : PortNo) (tag : Byte) (direction kinds cue : Nat) (d : Direction) (s : State) (x : Ctx),
    s.plays p x → directionOf direction = some d → kinds < 2 ^ 15 →
    let g := s.goodFrame p
    let cues := s.cuesOf x.take
    let refused : Nat → State := fun code => { g with out := g.out ++
      [(p, .reply tag { code := code, result := .refused .noSuch none, items := [] })] }
    (∀ e, x.seekCue cues d kinds = some e →
      e ∈ cues ∧ kindIn kinds e.kind = true ∧
      (d = .next → x.cursor < e.time ∧ e.time ≤ x.endBound) ∧
      (d = .previous → x.startBound ≤ e.time ∧ e.time < x.cursor) ∧
      ∃ v, exec (.seekCue p tag direction kinds) s = .next v ∧
        s.movesTo v p tag 0x25 x e.time x.stack false [.cueIndex (some e.index)]) ∧
    (x.seekCue cues d kinds = none → exec (.seekCue p tag direction kinds) s = .next (refused 0x25)) ∧
    (∀ e, cues.find? (fun e => e.index = cue) = some e →
      ∃ v, exec (.jumpCue p tag cue) s = .next v ∧
        s.movesTo v p tag 0x27 x (clamp x.startBound x.endBound e.time)
          ((x.cursor :: x.stack).take 8) (clamp x.startBound x.endBound e.time ≠ e.time) []) ∧
    ((∀ e ∈ cues, e.index ≠ cue) → exec (.jumpCue p tag cue) s = .next (refused 0x27)) ∧
    (∀ top rest, x.stack = top :: rest →
      ∃ v, exec (.backtrack p tag) s = .next v ∧ s.movesTo v p tag 0x28 x top rest false []) ∧
    (x.stack = [] → exec (.backtrack p tag) s = .next (refused 0x28))

/-- PLAY and STOP (R119): PLAY from STOPPED starts on data below the end bound and answers PLAY_END at it; STOP
withdraws the read and keeps cursor, stack and read-ahead. The reply of PLAY goes before its first frame, with the
cursor before it (log 23), and the pacing of a context that STOP has stopped is on data (log 37), which are the
model's choices. -/
def Obligations.PlayStartsAndStopStops : Prop :=
  ∀ (p : PortNo) (tag : Byte) (s : State) (x : Ctx), s.plays p x →
    let g := s.goodFrame p
    let answer : Nat → Mode → List (PortNo × Frame) := fun code m =>
      g.out ++ [(p, .reply tag { code := code, result := .ok,
                                 items := [.time x.cursor, .unlisted (.mode m)] })]
    (x.mode = .stopped → x.cursor < x.endBound → ∃ v y sent, exec (.play p tag) s = .next v ∧
      v.ctx p = some y ∧ v.out = answer 0x20 .playing ++ sent ∧
      (x.covering = none → sent = [] ∧ y = { x with
        mode := .playing, pacing := .onData
        outstanding := x.outstanding || (x.readAhead.length < 2 && x.readTime < x.endBound) }) ∧
      (x.covering.isSome = true → y.cursor = x.cursor + 2 ∧ sent ≠ []) ∧
      (∀ q, q ≠ p → v.ctx q = s.ctx q) ∧
      Touches [.link, .ctx, .arbiter, .out, .speech] s v) ∧
    (x.mode = .stopped → x.endBound ≤ x.cursor → exec (.play p tag) s = .next
      { g with out := answer 0x20 .stopped ++ g.noticeTo p (.playEnd x.take x.cursor) }) ∧
    (x.mode ≠ .stopped → exec (.play p tag) s = .next { g with out := answer 0x20 x.mode }) ∧
    ∃ v, exec (.stop p tag) s = .next v ∧
      v.ctx p = some (if x.mode = .stopped then x
        else { x with mode := .stopped, pacing := .onData, outstanding := false }) ∧
      (∀ q, q ≠ p → v.ctx q = s.ctx q) ∧ v.out = answer 0x21 .stopped ∧
      (x.mode ≠ .stopped → v.arbiter = (g.withdrawRead p).arbiter) ∧
      Touches [.link, .ctx, .arbiter, .out] s v

/-- A frame that falls due is sent when the read-ahead covers the cursor, as silence where it is above the port or
lies in no speech record, and otherwise the context stalls with one PLAY_STALL (R122, R123, R124).  That the pacing of a stalled context stays at
the due moment that passed is the model's choice (log 42). -/
def Obligations.DueFrameIsSentOrStalls : Prop :=
  ∀ (p : PortNo) (s : State) (x : Ctx), s.resetHeld = false → (s.link p).takesFrames = true →
    s.ctx p = some x → x.kind ≠ .exporting → x.mode = .playing → x.pacing = .due →
    (∀ r, x.covering = some r → ∃ v y before after, exec (.playFrameDue p) s = .next v ∧
      v.ctx p = some y ∧ y.cursor = x.cursor + 2 ∧
      v.out = s.out ++ before ++ (p, match speechAt r.recs r.recStart x.cursor with
        | some b => if s.isAbove p x x.cursor then .playSilence x.take x.cursor
            else .playSpeech x.take x.cursor b
        | none => .playSilence x.take x.cursor) :: after ∧
      after = (if x.endBound ≤ x.cursor + 2 then s.noticeTo p (.playEnd x.take (x.cursor + 2)) else []) ∧
      Touches [.ctx, .arbiter, .out, .speech] s v) ∧
    (x.covering = none → ∃ v, exec (.playFrameDue p) s = .next v ∧
      v.ctx p = some { x with
        mode := .stalled
        outstanding := x.outstanding || (x.readAhead.length < 2 && x.readTime < x.endBound) } ∧
      v.out = s.out ++ s.noticeTo p (.playStall x.take x.cursor) ∧
      Touches [.ctx, .arbiter, .out] s v)

/-! ### Pools, offers and holds -/

/-- READY puts the port at the tail of one ready list, answers, and lets a pass run; UNREADY takes it out of every
list (R81, R82). -/
def Obligations.ReadyJoinsAndUnreadyLeaves : Prop :=
  ∀ (p : PortNo) (tag : Byte) (pool : Nat) (k : PoolId) (s : State), s.hears p .typist →
    poolOf pool = some k →
    let g := s.goodFrame p
    (s.opState = .run → s.isHolding p = false → (s.handoff p).offer = none →
      ∃ v sent, exec (.ready p tag pool) s = .next v ∧
        v.out = g.out ++ (p, .reply tag
          { code := 0x30, result := .ok
            items := [.pool (some k), .unlisted (.readyPosition
              (((s.pool k).ready.filter (· ≠ p)).length + 1))] }) :: sent ∧
        (∀ j, j ≠ k → (v.pool j).ready.Sublist ((s.pool j).ready.filter (· ≠ p))) ∧
        (v.pool k).ready.Sublist ((s.pool k).ready.filter (· ≠ p) ++ [p]) ∧
        ((∀ c ∈ s.queue k, c.state ≠ .pending) →
          (v.pool k).ready = (s.pool k).ready.filter (· ≠ p) ++ [p] ∧ sent = []) ∧
        Touches (.link :: offerParts) s v) ∧
    ∃ v, exec (.unready p tag) s = .next v ∧
      (∀ j, (v.pool j).ready = (s.pool j).ready.filter (· ≠ p)) ∧
      v.out = g.out ++ [(p, .reply tag { code := 0x31, result := .ok, items := [] })] ∧
      Touches [.link, .pools, .out] s v

/-- PEEK reserves the first PENDING chunk of the queue at or below the link's clearance and shows it, and otherwise
clears the reservation (R95). -/
def Obligations.PeekReservesTheFirstCleared : Prop :=
  ∀ (p : PortNo) (tag : Byte) (pool : Nat) (k : PoolId) (s : State), s.hears p .typist →
    s.opState = .run → poolOf pool = some k →
    let g := s.goodFrame p
    (∀ a c b, s.queue k = a ++ c :: b → c.state = .pending → c.required ≤ (s.link p).clearance →
      (∀ e ∈ a, e.state = .pending → (s.link p).clearance < e.required) →
      exec (.peek p tag pool) s = .next
        { g.setHandoff p { s.handoff p with reservation := some c.name } with
          out := g.out ++ [(p, .reply tag
            { code := 0x32, result := .ok, items := [.chunk c.summary] })] }) ∧
    ((∀ e ∈ s.queue k, e.state = .pending → (s.link p).clearance < e.required) →
      exec (.peek p tag pool) s = .next
        { g.setHandoff p { s.handoff p with reservation := none } with
          out := g.out ++ [(p, .reply tag
            { code := 0x32, result := .refused .empty none, items := [] })] })

/-- ACCEPT of the outstanding offer and CLAIM of the reservation make the hold (R85, R96, R98): the chunk is HELD by
the station on the port, the port leaves its ready list, and a stopped context covers the chunk. That a CLAIM on a
link with an offer makes the hold before the pass of the offer it withdraws, and answers behind that pass, is the
model's reading (log 33). -/
def Obligations.AcceptAndClaimMakeTheHold : Prop :=
  ∀ (p : PortNo) (tag : Byte) (s : State) (n : ChunkName) (c : Chunk) (i : Instr) (code : Nat),
    s.hears p .typist → s.chunk? n = some c → c.playStart % 2 = 0 → c.playStart ≤ c.ownEnd →
    (i = .accept p tag n.take n.ordinal ∧ code = 0x34 ∧
        (s.handoff p).offer.map (·.chunk) = some n) ∨
      (i = .claim p tag ∧ code = 0x33 ∧ s.opState = .run ∧ s.isHolding p = false ∧
        (s.handoff p).reservation = some n) →
    let held : Chunk := { c with
      state := .held, holderStation := (s.link p).station, holderPort := some p
      heldSince := some s.clock, offeree := none, noOffer := false, lastDecliner := none }
    ∃ v sent, exec i s = .next v ∧ v.chunk? n = some held ∧
      (∀ k, p ∉ (v.pool k).ready) ∧ (v.handoff p).offer = none ∧
      v.ctx p = some
        { take := n.take, kind := .typist, startBound := c.playStart, endBound := c.ownEnd
          cursor := c.playStart, mode := .stopped, pacing := .onData, stack := [], readAhead := []
          outstanding := false, stretch := false, damagedCount := 0, silenced := false
          closedAtBegin := false } ∧
      (∀ t, s.take? n.take = some t →
        v.take? n.take = some { t with readers := t.readers + 1 }) ∧
      v.out = (s.goodFrame p).out ++ sent ++
        [(p, .reply tag { code := code, result := .ok, items := [.chunk held.summary] })] ∧
      (∀ r, (v.handoff r).reservation ≠ some n) ∧
      Touches ([.link, .ctx, .damage, .takes] ++ offerParts) s v

/-- DECLINE and the offer timer end the offer (R86, R87): the chunk is PENDING at its place for the pass that
follows, a decline noting the decliner and, with re-offer off, NO_OFFER. -/
def Obligations.DeclineAndTimeoutEndTheOffer : Prop :=
  ∀ (p : PortNo) (tag : Byte) (s : State) (o : Offer) (c : Chunk) (k : PoolId),
    s.hears p .typist → (s.handoff p).offer = some o → s.chunk? o.chunk = some c → c.pool = some k →
    (∀ j, p ∉ (s.pool j).ready) →
    let g := s.goodFrame p
    (∃ v d sent, exec (.decline p tag o.chunk.take o.chunk.ordinal) s = .next v ∧
      v.chunk? o.chunk = some d ∧
      d.unpicked = { c with
        state := .pending, offeree := none, lastDecliner := some p
        noOffer := c.noOffer || !(s.pool k).reoffer } ∧
      d.offeree ≠ some p ∧ (v.handoff p).offer = none ∧ (v.handoff p).lapsed = (s.handoff p).lapsed ∧
      v.out = g.out ++ (p, .reply tag { code := 0x35, result := .ok, items := [] }) :: sent ∧
      Touches (.link :: offerParts) s v) ∧
    ∃ v d sent, exec (.offerTimerExpiry p) s = .next v ∧ v.chunk? o.chunk = some d ∧
      d.unpicked = { c with state := .pending, offeree := none } ∧
      (v.handoff p).offer = none ∧ (v.handoff p).lapsed = some o.chunk ∧
      v.out = s.out ++ s.noticeTo p (.offerLapsed o.chunk) ++ sent ∧ Touches offerParts s v

/-- FINISH frees the held chunk with a FINISHED record and one more chunk finished, and then serves the deferral
list (R100; O60 states the service); YIELD returns it to PENDING, or to PARKED with recall pending (R101, R108).
That the reply to a YIELD that parks stands behind the notice of its record is the model's reading (log 34). -/
def Obligations.FinishAndYieldEndTheHold : Prop :=
  ∀ (p : PortNo) (tag : Byte) (pages : Nat) (s : State) (c : Chunk) (x : Ctx) (t : Take),
    s.hears p .typist → s.heldBy p = some c → s.chunk? c.name = some c → s.ctx p = some x →
    x.take = c.name.take → s.take? c.name.take = some t → c.offeree = none →
    let g := s.goodFrame p
    let logged : LogRec → List LogRec := fun r => if s.log.length < 64 then s.log ++ [r] else s.log
    (∃ v u before after, exec (.finish p tag pages) s = .next v ∧ v.ctx p = none ∧
      v.log = logged { kind := .finished, chunk := c.name, station := c.holderStation, clock := s.clock
                       heldSince := c.heldSince, pages := pages, tooLate := c.recallPending } ∧
      v.overrun = (s.overrun || 64 ≤ s.log.length) ∧
      v.take? c.name.take = some u ∧ u.chunksFinished = t.chunksFinished + 1 ∧
      u.readers = t.readers - 1 ∧
      (s.deferral = [] → v.chunks = s.chunks.filter (fun e => e.name ≠ c.name) ∧ after = []) ∧
      (∃ w, v = State.serveDeferral s.deferral w ∧ w.chunks = s.chunks.filter (fun e => e.name ≠ c.name) ∧
        w.deferral = s.deferral ∧ w.arrivalSeq = s.arrivalSeq ∧ w.clock = s.clock ∧ w.pools = s.pools ∧
        w.take? c.name.take = some { t with chunksFinished := t.chunksFinished + 1, readers := t.readers - 1 } ∧
        ∀ n, n ≠ c.name.take → w.take? n = s.take? n) ∧
      v.out = g.out ++ before ++ (p, .reply tag { code := 0x36, result := .ok, items := [] }) :: after ∧
      Touches ([.link, .ctx, .log, .overrun, .arbiter] ++ cutParts) s v) ∧
    (c.recallPending = false → ∃ v d sent, exec (.yield p tag) s = .next v ∧ v.ctx p = none ∧
      v.chunk? c.name = some d ∧
      d.unpicked = ({ c with state := .pending, holderStation := none, holderPort := none
                             heldSince := none } : Chunk).unpicked ∧
      v.take? c.name.take = some { t with readers := t.readers - 1 } ∧
      v.out = g.out ++ (p, .reply tag { code := 0x37, result := .ok, items := [] }) :: sent ∧
      Touches ([.link, .ctx, .takes, .arbiter] ++ offerParts) s v) ∧
    (c.recallPending = true → ∃ v sent, exec (.yield p tag) s = .next v ∧ v.ctx p = none ∧
      v.chunk? c.name = some { c with
        state := .parked, pool := none, offeree := none, holderStation := none, holderPort := none
        heldSince := none, savedCursor := none, graceTimer := none, recallPending := false } ∧
      v.log = logged { kind := .recalled, chunk := c.name, station := c.holderStation, clock := s.clock
                       heldSince := c.heldSince, pages := 0, tooLate := false } ∧
      v.out = g.out ++ sent ++ [(p, .reply tag { code := 0x37, result := .ok, items := [] })] ∧
      Touches ([.link, .ctx, .takes, .arbiter, .log, .overrun] ++ offerParts) s v)

/-- A lapsed hold comes back with RESUME_HOLD at its saved cursor (R104), and ends with its grace timer: logged,
PENDING again and one more reissue, at most 7 (R105).  That a lapsed hold without a saved cursor comes back at its
play start is the model's reading (log 31). -/
def Obligations.LapsedHoldReturnsOrEnds : Prop :=
  ∀ (p : PortNo) (tag : Byte) (s : State) (c : Chunk), s.chunk? c.name = some c → c.offeree = none →
    (∀ cursor, s.hears p .typist → s.heldBy p = none → s.lapsedHoldOf p = some c →
      cursor = c.savedCursor.getD c.playStart → cursor % 2 = 0 → c.playStart ≤ cursor →
      cursor ≤ c.ownEnd →
      let held : Chunk := { c with
        state := .held, holderPort := some p, graceTimer := none, savedCursor := none
        noOffer := false, lastDecliner := none }
      ∃ v sent, exec (.resumeHold p tag) s = .next v ∧ v.chunk? c.name = some held ∧
        (v.ctx p).map (fun y => (y.take, y.startBound, y.endBound, y.cursor, y.mode)) =
          some (c.name.take, c.playStart, c.ownEnd, cursor, .stopped) ∧
        v.out = (s.goodFrame p).out ++ sent ++ [(p, .reply tag
          { code := 0x38, result := .ok, items := [.chunk held.summary, .time cursor] })] ∧
        Touches ([.link, .ctx, .damage, .takes] ++ offerParts) s v) ∧
    (s.resetHeld = false → c.state = .lapsing → c.graceTimer.isSome = true →
      ∃ v d, exec (.graceTimerExpiry c.name.take c.name.ordinal) s = .next v ∧
        v.chunk? c.name = some d ∧
        d.unpicked = ({ c with
          state := .pending, holderStation := none, heldSince := none, savedCursor := none
          graceTimer := none, reissues := min 7 (c.reissues + 1) } : Chunk).unpicked ∧
        v.log = (if s.log.length < 64 then s.log ++
          [{ kind := .lapsed, chunk := c.name, station := c.holderStation, clock := s.clock
             heldSince := c.heldSince, pages := 0, tooLate := false }] else s.log) ∧
        Touches ([.log, .overrun] ++ offerParts) s v)

/-- After an offer pass no PENDING chunk of the queue without NO_OFFER has a ready port it could be offered to, and
every offer the pass made is of such a chunk to a port that was ready, is cleared for it and did not decline it
last (R84). -/
def Obligations.OfferPassLeavesNoPair : Prop :=
  ∀ (s : State) (k : PoolId),
    let t := s.offerPass k
    (∀ c ∈ t.queue k, c.state = .pending → c.noOffer = false →
      ∀ p ∈ (t.pool k).ready, (t.link p).clearance < c.required ∨ c.lastDecliner = some p) ∧
    ∀ p o, (t.handoff p).offer = some o → (s.handoff p).offer = some o ∨
      (o.timeout = s.offerTimeout ∧ p ∈ (s.pool k).ready ∧
        ∃ c ∈ s.queue k, c.name = o.chunk ∧ c.state = .pending ∧ c.noOffer = false ∧
          c.required ≤ (s.link p).clearance ∧ c.lastDecliner ≠ some p)

/-- A pool's queue is exactly its PENDING and OFFERED chunks, in the order of its discipline (R78). -/
def Obligations.QueueHoldsTheWaitingInOrder : Prop :=
  ∀ (s : State) (k : PoolId),
    (s.queue k).Perm (s.chunks.filter (fun c =>
      c.pool = some k && (c.state = .pending || c.state = .offered))) ∧
    ((s.pool k).discipline = .arrival →
      (s.queue k).Pairwise (fun x y => x.arrival ≤ y.arrival)) ∧
    ((s.pool k).discipline = .urgency →
      (s.queue k).Pairwise (fun x y => x.key < y.key ∨ (x.key = y.key ∧ x.arrival ≤ y.arrival)))

/-! ### Desks -/

/-- An accepted RESTRICT_SPAN places its two cues, ends the take's exported flag, silences the exports that run, and
raises every chunk whose play span it meets (R18, R19, R130). -/
def Obligations.RestrictSpanRaisesWhatItMeets : Prop :=
  ∀ (p : PortNo) (tag : Byte) (take start stop level : Nat) (s : State) (t : Take),
    s.hears p .desk → s.take? take = some t → t.state ≠ .releasing → 65 < s.cueFree →
    let a := min (start / 2 * 2) t.endTime
    let b := min (stop / 2 * 2) t.endTime
    let l := min 3 (max 1 level)
    a < b →
    let h := s.placeCue take a .restrictBegin (some l) .desk
    ∃ v u sent, exec (.restrictSpan p tag take start stop level) s = .next v ∧
      v.take? take = some u ∧
      u.apartFromCuts t = { t with
        exported := false
        cues := h.withCue b .restrictEnd s.lowestCue .desk
          (s.withCue a .restrictBegin (some l) .desk t.cues) } ∧
      (∀ q y, s.ctx q = some y → y.kind = .exporting → y.take = take →
        v.ctx q = some { y with silenced := true }) ∧
      ((v.chunks.map (·.name)).Nodup → ∀ c ∈ v.chunks, c.name.take = take →
        max c.playStart a < min c.ownEnd b → l ≤ c.required) ∧
      v.out = (s.goodFrame p).out ++ sent ++ [(p, .reply tag
        (if a = start ∧ b = stop ∧ l = level then { code := 0x41, result := .ok, items := [] }
         else { code := 0x41, result := .clamped, items := [.time a, .time b, .level l] }))] ∧
      Touches ([.link, .ctx, .cues, .cueArrival] ++ cutParts) s v

/-- RELEASE_TAKE tests its four conditions in order; an accepted release runs by steps, each moving the head block of
the chain to the tail of the free list, and frees the record with the last (R20, R21, R56).  That RELEASED goes to the
desks in ascending port order (log 25) and that a FREE block keeps no content (log 30) are the model's choices. -/
def Obligations.ReleaseRunsBlockByBlock : Prop :=
  ∀ (p : PortNo) (tag : Byte) (take : Nat) (s : State) (t : Take), s.take? take = some t →
    let g := s.goodFrame p
    (s.hears p .desk → ∀ u, t.releaseUnmet = some u → exec (.releaseTake p tag take) s = .next
      { g with out := g.out ++ [(p, .reply tag
        { code := 0x42, result := .refused .takeBusy (some u), items := [] })] }) ∧
    (s.hears p .desk → t.state = .closed → t.exported = true → t.chunksMade = t.chunksFinished →
      t.deferred = false → t.readers = 0 →
      let answer := g.out ++ [(p, .reply tag { code := 0x42, result := .ok, items := [] })]
      ∃ v, exec (.releaseTake p tag take) s = .next v ∧
        (t.chain = [] → v.take? take = none ∧ v.out = answer ++ g.deskNotices (.released take) ∧
          v.arbiter = s.arbiter) ∧
        (t.chain ≠ [] → v.take? take = some { t with state := .releasing } ∧ v.out = answer ∧
          (s.arbiter.tenure.isSome = true → v.arbiter = { s.arbiter with
            releases := s.arbiter.releases ++ List.replicate t.chain.length take })) ∧
        (∀ n, n ≠ take → v.take? n = s.take? n) ∧
        Touches [.link, .takes, .takeKeys, .chains, .cues, .arbiter, .out] s v) ∧
    (s.resetHeld = false → s.arbiter.tenure = some (.release take) → ∀ b start rest,
      t.chain = (b, start) :: rest → s.directory.wf → s.store.wf →
      ∃ v, exec .releaseStepComplete s = .next v ∧
        v.free.toList = s.free.toList ++ [b] ∧ Table.find v.directory b = none ∧
        Table.find v.store b = none ∧
        (∀ c, c ≠ b → Table.find v.directory c = Table.find s.directory c ∧
          Table.find v.store c = Table.find s.store c) ∧
        v.take? take = (if rest = [] then none else some { t with chain := rest }) ∧
        (∀ n, n ≠ take → v.take? n = s.take? n) ∧
        Touches [.takes, .takeKeys, .chains, .cues, .directory, .store, .free, .arbiter, .lowFlag, .out]
          s v)

/-- EXPORT_BEGIN over [0, E) of a take (R126), which ends at once where E is 0 (R128), and EXPORT_STOP (R129). -/
def Obligations.ExportBeginsAndStops : Prop :=
  ∀ (p : PortNo) (tag : Byte) (take : Nat) (s : State) (t : Take), s.hears p .desk →
    s.take? take = some t →
    let g := s.goodFrame p
    let closed : Bool := t.state = .closed
    let answer := g.out ++ [(p, .reply tag
      { code := 0x43, result := .ok
        items := [.takeId take, .time t.endTime, .unlisted (.answer closed)] })]
    (s.ctx p = none → t.state ≠ .releasing → 0 < t.endTime →
      ∃ v, exec (.exportBegin p tag take) s = .next v ∧
        v.ctx p = some
          { take := take, kind := .exporting, startBound := 0, endBound := t.endTime, cursor := 0
            mode := .playing, pacing := .onData, stack := [], readAhead := [], outstanding := true
            stretch := false, damagedCount := 0, silenced := false, closedAtBegin := closed } ∧
        v.take? take = some { t with readers := t.readers + 1 } ∧ v.out = answer ∧
        Touches [.link, .ctx, .damage, .takes, .arbiter, .out] s v) ∧
    (s.ctx p = none → t.state ≠ .releasing → t.endTime = 0 →
      ∃ v, exec (.exportBegin p tag take) s = .next v ∧ v.ctx p = none ∧
        v.take? take = some { t with exported := t.exported || closed } ∧
        v.out = answer ++ g.noticeTo p (.exportEnd take 0 0 false) ∧
        Touches [.link, .ctx, .damage, .takes, .arbiter, .out] s v) ∧
    ∀ x, s.ctx p = some x → x.take = take →
      ∃ v, exec (.exportStop p tag) s = .next v ∧ v.ctx p = none ∧
        v.take? take = some { t with readers := t.readers - 1 } ∧
        v.out = g.out ++ [(p, .reply tag
          { code := 0x44, result := .ok
            items := [.takeId take, .time x.cursor, .unlisted (.damagedCount x.damagedCount),
              .unlisted (.answer x.silenced)] })] ∧
        Touches [.link, .ctx, .takes, .arbiter, .out] s v

/-- RECALL parks a PENDING or LAPSING chunk with its record, ends the offer of an OFFERED one, and asks a holder once
(R107); REPOOL puts a chunk that is PENDING, OFFERED or PARKED in the named pool (R92).  That the reply to a RECALL goes
out behind the notices of its effects is the model's reading (log 34). -/
def Obligations.RecallAndRepoolMoveTheChunk : Prop :=
  ∀ (p : PortNo) (tag : Byte) (pool : Nat) (k : PoolId) (s : State) (c : Chunk), s.hears p .desk →
    s.chunk? c.name = some c → poolOf pool = some k →
    let parked : Chunk := { c with
      state := .parked, pool := none, offeree := none, holderStation := none, holderPort := none
      heldSince := none, savedCursor := none, graceTimer := none, recallPending := false }
    let answered : State → Prop := fun v => ∃ sent, v.out = (s.goodFrame p).out ++ sent ++
      [(p, .reply tag { code := 0x45, result := .ok, items := [] })]
    (c.state = .pending ∨ c.state = .offered ∨ c.state = .lapsing →
      ∃ v, exec (.recall p tag c.name.take c.name.ordinal) s = .next v ∧ answered v ∧
        (c.state = .offered → ∀ q o, c.offeree = some q → (s.handoff q).offer = some o →
          o.chunk = c.name → v.chunk? c.name = some parked) ∧
        (c.state ≠ .offered → v.chunk? c.name = some parked) ∧
        v.log = (if s.log.length < 64 then s.log ++
          [{ kind := .recalled, chunk := c.name
             station := if c.state = .lapsing then c.holderStation else none, clock := s.clock
             heldSince := if c.state = .lapsing then c.heldSince else none, pages := 0
             tooLate := false }] else s.log) ∧
        Touches ([.link, .log, .overrun] ++ offerParts) s v) ∧
    (c.state = .held → ∃ v, exec (.recall p tag c.name.take c.name.ordinal) s = .next v ∧ answered v ∧
      v.chunk? c.name = some { c with recallPending := true } ∧
      Touches [.link, .handoff, .chunks, .out] s v) ∧
    (c.state = .pending ∨ c.state = .parked → c.offeree = none →
      ∃ v d sent, exec (.repool p tag c.name.take c.name.ordinal pool) s = .next v ∧
        v.chunk? c.name = some d ∧
        d.unpicked = ({ c with state := .pending, pool := some k, noOffer := false
                               lastDecliner := none } : Chunk).unpicked ∧
        v.out = (s.goodFrame p).out ++ (p, .reply tag
          { code := 0x46, result := .ok
            items := [.chunk ({ c with state := .pending, pool := some k, noOffer := false
                                       lastDecliner := none } : Chunk).summary] }) :: sent ∧
        Touches (.link :: offerParts) s v) ∧
    (c.state = .offered → c.pool = some k →
      ∃ v sent, exec (.repool p tag c.name.take c.name.ordinal pool) s = .next v ∧
        v.chunk? c.name = some { c with noOffer := false, lastDecliner := none } ∧
        v.out = (s.goodFrame p).out ++ (p, .reply tag
          { code := 0x46, result := .ok
            items := [.chunk ({ c with noOffer := false, lastDecliner := none } : Chunk).summary] }) ::
          sent ∧
        Touches (.link :: offerParts) s v) ∧
    (∀ q o, c.state = .offered → c.pool ≠ some k → c.offeree = some q → (s.handoff q).offer = some o →
      o.chunk = c.name →
      ∃ v d, exec (.repool p tag c.name.take c.name.ordinal pool) s = .next v ∧
        v.chunk? c.name = some d ∧
        d.unpicked = { c with state := .pending, offeree := none, pool := some k, noOffer := false
                              lastDecliner := none } ∧
        Touches (.link :: offerParts) s v) ∧
    let refused : Nat → State := fun code => { s.goodFrame p with out := (s.goodFrame p).out ++
      [(p, .reply tag { code := code, result := .refused .wrongState none, items := [] })] }
    (c.state = .parked →
      exec (.recall p tag c.name.take c.name.ordinal) s = .next (refused 0x45)) ∧
    (c.state = .held ∨ c.state = .lapsing →
      exec (.repool p tag c.name.take c.name.ordinal pool) s = .next (refused 0x46))

/-- FETCH_LOG takes the oldest records, one to eight, off the log and ends the overrun (R111).  A clamped count goes
first in the reply, which is the model's choice (log 21). -/
def Obligations.FetchedRecordsLeaveTheLog : Prop :=
  ∀ (p : PortNo) (tag : Byte) (n : Nat) (s : State), s.hears p .desk →
    let g := s.goodFrame p
    let m := min 8 (max 1 n)
    let items := (s.log.take m).map Item.logRec ++
      [.unlisted (.logLeft (s.log.length - m)), .unlisted (.answer s.overrun)]
    exec (.fetchLog p tag n) s = .next { g with
      log := s.log.drop m, overrun := false
      out := g.out ++ [(p, .reply tag (if m = n then { code := 0x47, result := .ok, items := items }
        else { code := 0x47, result := .clamped, items := .count m :: items }))] }

/-- SET_CLOCK sets the office clock and a tick, which is a command here (log 8), advances it by one up to its top
value, and neither changes the due or key of a chunk (R71, R160). -/
def Obligations.OfficeClockIsSetAndTicks : Prop :=
  ∀ (p : PortNo) (tag : Byte) (seconds : Nat) (s : State),
    (s.hears p .desk → exec (.setClock p tag seconds) s = .next { s.goodFrame p with
      clock := seconds
      out := (s.goodFrame p).out ++ [(p, .reply tag
        { code := 0x48, result := .ok, items := [.clock seconds] })] }) ∧
    (s.resetHeld = false → exec .officeClockTick s = .next
      { s with clock := if s.clock < 4294967295 then s.clock + 1 else 4294967295 })

/-- SET_CLEARANCE writes the station's level, 0 removing its entry, and carries it to the attached link; a full table
refuses a new station; GET_CLEARANCE answers the level, 0 for a station that is not listed (R161, R162). -/
def Obligations.ClearanceTableIsKept : Prop :=
  ∀ (p : PortNo) (tag : Byte) (station level : Nat) (s : State), s.hears p .desk → 1 ≤ station →
    station ≤ 65535 → s.clearances.wf →
    let g := s.goodFrame p
    let l := min 3 level
    let old := (Table.find s.clearances station).getD 0
    (l = 0 ∨ (Table.find s.clearances station).isSome = true ∨ s.clearances.length < 32 →
      ∃ v sent, exec (.setClearance p tag station level) s = .next v ∧
        Table.find v.clearances station = (if l = 0 then none else some l) ∧
        (∀ m, m ≠ station → Table.find v.clearances m = Table.find s.clearances m) ∧
        (∀ q, (g.link q).isAttached = true → (g.link q).station = some station →
          (∀ r, (g.link r).isAttached = true → (g.link r).station = some station → r = q) →
          old ≠ l → v.link q = { g.link q with clearance := l }) ∧
        v.out = g.out ++ sent ++ [(p, .reply tag
          { code := 0x49, result := if l = level then .ok else .clamped
            items := [.level l, .unlisted (.entriesInUse v.clearances.length)] })] ∧
        Touches ([.clearances, .link] ++ offerParts) s v) ∧
    (l ≠ 0 → Table.find s.clearances station = none → 32 ≤ s.clearances.length →
      exec (.setClearance p tag station level) s = .next { g with out := g.out ++ [(p, .reply tag
        { code := 0x49, result := .refused .tableFull none, items := [] })] }) ∧
    exec (.getClearance p tag station) s = .next { g with out := g.out ++ [(p, .reply tag
      { code := 0x4A, result := .ok, items := [.level old] })] }

/-- The queries of a desk change nothing but what their good frame and their reply change, and the reply carries
what the state holds (R28, R59, R76, R103, R152, R163, R164). The continuation value of a list (log 19), and the
ascending order of the ports in the reply of GET_LINKS (log 39), are the model's choices. -/
def Obligations.QueriesAnswerFromTheState : Prop :=
  ∀ (p : PortNo) (tag : Byte) (s : State), s.hears p .desk →
    let g := s.goodFrame p
    let answers : Instr → Nat → List Item → Prop := fun c code items =>
      exec c s = .next { g with out := g.out ++
        [(p, .reply tag { code := code, result := .ok, items := items })] }
    answers (.status p tag) 0x4B [.status s.opState s.clock s.free.count s.takes.length
      (s.takes.filter (fun e => e.2.isOpen)).length s.cueFree s.chunks.length s.deferral.length
      s.arrivalSeq s.log.length s.lowFlag s.overrun] ∧
    (∀ start, answers (.listTakes p tag start) 0x4C
      (pageItems (walkFrom (s.takes.map (fun e => (e.1, .take e.2.summary))) start))) ∧
    (∀ take t, s.take? take = some t → answers (.listCues p tag take 0xFFFFFFFF) 0x4D
      (pageItems (t.cues.map (fun e => (e.index, .cue take e))))) ∧
    (∀ start, answers (.listChunks p tag 3 0 start) 0x4E (pageItems (walkFrom s.parkedWalk start))) ∧
    (∀ pool k start, poolOf pool = some k → answers (.listChunks p tag 2 pool start) 0x4E
      (pageItems (walkFrom (s.queueWalk k) start))) ∧
    (∀ take t start, s.take? take = some t → answers (.listChunks p tag 1 take start) 0x4E
      (pageItems (walkFrom ((s.chunksOf take).map (fun c => (c.name.ordinal, .chunk c.summary)))
        start))) ∧
    answers (.getLinks p tag) 0x4F (.count s.dropTime :: allPorts.flatMap (fun q =>
      [.unlisted (.portState (g.link q).state), .role (g.link q).role, .station (g.link q).station,
        .level (g.link q).clearance, .unlisted (.errorCount (g.link q).errorCount)])) ∧
    (∀ i (h : i < 32), answers (.getFilter p tag i) 0x5B s.filter[i].items) ∧
    answers (.getIntake p tag) 0x5C (s.defaultAction.items ++ [.count s.pauseThreshold]) ∧
    (∀ pool k, poolOf pool = some k → answers (.getPool p tag pool) 0x5D
      [.count (s.pool k).length, .count (s.pool k).window, .count (s.pool k).leadIn,
        .unlisted (.minimumTail ((s.pool k).length / 4)), .ratio (s.pool k).ratio,
        .discipline (s.pool k).discipline, .reoffer (s.pool k).reoffer,
        .unlisted (.queueLength (s.queue k).length),
        .unlisted (.queuePending ((s.queue k).filter (fun c => c.state = .pending)).length),
        .unlisted (.readyLength (s.pool k).ready.length)]) ∧
    answers (.getHandoff p tag) 0x5E [.count s.grace, .count s.offerTimeout]

/-- ENTER_SETUP with no open take and no chunk in work empties the ready lists, reservations and lapsed offers
(R158); LEAVE_SETUP prices the waiting chunks again and enters RUN (R74, R159). -/
def Obligations.SetupIsEnteredAndLeft : Prop :=
  ∀ (p : PortNo) (tag : Byte) (s : State), s.hears p .desk →
    let g := s.goodFrame p
    let answer : Nat → List (PortNo × Frame) := fun code =>
      g.out ++ [(p, .reply tag { code := code, result := .ok, items := [] })]
    (s.opState = .run → (∀ e ∈ s.takes, e.2.isOpen = false) →
      (∀ c ∈ s.chunks, c.state = .parked ∨ c.state = .pending) →
      ∃ v, exec (.enterSetup p tag) s = .next v ∧ v.opState = .setup ∧
        (∀ k, v.pool k = { s.pool k with ready := [] }) ∧
        (∀ q, v.handoff q = { offer := (s.handoff q).offer, lapsed := none, reservation := none }) ∧
        v.out = answer 0x50 ∧ Touches [.link, .opState, .pools, .handoff, .out] s v) ∧
    (s.opState = .setup → (s.chunks.map (·.name)).Nodup →
      ∃ v, exec (.leaveSetup p tag) s = .next v ∧ v.opState = .run ∧
        v.chunks = s.chunks.map (fun c =>
          let e := (c.billable * (s.pool (c.pool.getD .a)).ratio + 399) / 400
          if c.state = .pending ∨ c.state = .offered ∨ c.state = .parked then
            { c with estimate := e, key := c.due - e } else c) ∧
        v.out = answer 0x51 ∧ Touches [.link, .opState, .chunks, .handoff, .out] s v)

/-- The nine setting writes in SETUP: the value in effect is the operand within its range, and the reply is CLAMPED
with the values in effect when a range changed one (R28, R57, R59, R76, R77, R103, R152, R157).  Which values such a
reply carries, and that the watermark's reply goes before its test, are the model's choices (logs 22 and 24). -/
def Obligations.SettingWritesTakeEffect : Prop :=
  ∀ (p : PortNo) (tag : Byte) (s : State), s.hears p .desk → s.opState = .setup →
    let g := s.goodFrame p
    let answer : Nat → Bool → List Item → List (PortNo × Frame) := fun code changed items =>
      g.out ++ [(p, .reply tag { code := code, result := if changed then .clamped else .ok
                                 items := items })]
    let only : Bool → List Item → List Item := fun changed items => if changed then items else []
    (∀ n, let m := min 1000 (max 40 n)
      exec (.setPauseThreshold p tag n) s = .next { g with
        pauseThreshold := m, out := answer 0x54 (m ≠ n) (only (m ≠ n) [.count m]) }) ∧
    (∀ n, let m := min 255 (max 5 n)
      exec (.setOfferTimeout p tag n) s = .next { g with
        offerTimeout := m, out := answer 0x58 (m ≠ n) (only (m ≠ n) [.count m]) }) ∧
    (∀ n, let m := min 7200 (max 60 n)
      exec (.setGrace p tag n) s = .next { g with
        grace := m, out := answer 0x59 (m ≠ n) (only (m ≠ n) [.count m]) }) ∧
    (∀ n, let m := min 600 (max 10 n)
      exec (.setDropTime p tag n) s = .next { g with
        dropTime := m, out := answer 0x5A (m ≠ n) (only (m ≠ n) [.count m]) }) ∧
    (∀ n, let m := min 65535 n
      ∃ v sent, exec (.setWatermark p tag n) s = .next v ∧ v.watermark = m ∧
        v.out = answer 0x55 (m ≠ n) [.count m, .unlisted (.blockCount s.free.count)] ++ sent ∧
        (v.lowFlag = true ↔ s.free.count ≤ m ∨ (s.lowFlag = true ∧ s.free.count ≤ m + 64)) ∧
        Touches [.link, .watermark, .lowFlag, .out] s v) ∧
    (∀ target turnaround whole floor t w, targetOf target = some t → yesNo whole = some w →
      let a : Action := { target := t, turnaround := min 2592000 (max 600 turnaround), whole := w
                          floor := min 3 floor }
      let changed : Bool := a.turnaround ≠ turnaround || a.floor ≠ floor
      (exec (.setDefaultAction p tag target turnaround whole floor) s = .next { g with
        defaultAction := a, out := answer 0x53 changed (only changed a.items) }) ∧
      ∀ index enabled kind first second en k (h : index < 32), yesNo enabled = some en →
        filterKindOf kind = some k →
        let e : FilterElem := { enabled := en, kind := k, first := first, second := second, action := a }
        exec (.setFilter p tag index enabled kind first second target turnaround whole floor) s =
          .next { g with filter := s.filter.set index e h
                         out := answer 0x52 changed (only changed e.items) }) ∧
    (∀ pool length window leadIn ratio k, poolOf pool = some k →
      let n := min 180000 (max 6000 length) / 2 * 2
      let w := min (n / 2) window / 2 * 2
      let v := min (min 3000 (n / 4)) leadIn / 2 * 2
      let q := min 64 (max 4 ratio)
      exec (.setPoolSplit p tag pool length window leadIn ratio) s = .next
        { g.setPool k { s.pool k with length := n, window := w, leadIn := v, ratio := q } with
          out := answer 0x56 (n ≠ length || w ≠ window || v ≠ leadIn || q ≠ ratio)
            [.count n, .count w, .count v, .ratio q, .unlisted (.minimumTail (n / 4))] }) ∧
    ∀ pool discipline reoffer k d r, poolOf pool = some k → disciplineOf discipline = some d →
      yesNo reoffer = some r →
      exec (.setPoolMode p tag pool discipline reoffer) s = .next
        { g.setPool k { s.pool k with discipline := d, reoffer := r } with
          out := answer 0x57 false [] }

/-! ### The store -/

/-- A completed write stores the records of its buffer with their check value and empties the buffer, and the next
request is granted (R46, R47, R49). -/
def Obligations.WriteCompletionStoresTheBlock : Prop :=
  ∀ (s : State) (r : WriteReq) (e : DirEntry), s.resetHeld = false →
    s.arbiter.tenure = some (.write r) → Table.find s.directory r.block = some e →
    let recs := ((s.intake r.port).buf r.buf).recs
    ∃ v, exec .writeTenureComplete s = .next v ∧
      Table.find v.store r.block = some
        { recs := recs, bytes := recsBytes recs } ∧
      Table.find v.directory r.block = some
        { e with state := .stored, check := some (crc (recsBytes recs)), port := none } ∧
      (∀ b, b ≠ r.block → Table.find v.store b = Table.find s.store b ∧
        Table.find v.directory b = Table.find s.directory b) ∧
      (v.intake r.port).buf r.buf = .empty ∧ (∀ q, q ≠ r.port → v.intake q = s.intake q) ∧
      (s.arbiter.writes = [] → s.arbiter.reads = [] → s.arbiter.releases = [] →
        v.arbiter = { s.arbiter with tenure := none }) ∧
      Touches [.store, .directory, .intake, .arbiter] s v

/-- A completed read joins the read-ahead of the context that wants it: from the buffer, or from the store with its
check matching; a mismatch makes the block DAMAGED, counts it once and delivers no record; a stale result is
discarded (R46, R52, R53, R55, R121). A block that stands as it was written reads as the records it was written as.
The context is first one that plays and waits for its next frame to fall due, and then an export, which sends its
frames at once as far as the result reaches, and at its end bound EXPORT_END, the exported flag and its removal
(R123, R127, R128). That DAMAGED_BLOCK goes out before those frames, and a RESTRICTED_SILENCED before the frame that
holds its time, is the model's choice (logs 35 and 38), and so are the order of DAMAGED_BLOCK over the ports, the
requester first and then the other desks ascending (log 25), and that the changes of the DRAM come as the operand
upsets and stay in the block (log 11). Where a record head stands otherwise than it was written, the content is a
free value (log 4). -/
def Obligations.ReadCompletionDeliversTheResult : Prop :=
  ∀ (s : State) (upsets : List Upset) (first : Bool) (r : ReadReq) (b start stop t0 : Nat)
    (source : Source), s.resetHeld = false →
    (s.arbiter.tenure = some (.read r (some b) start stop t0 source false) →
      ∀ x, s.ctx r.port = some x → x.kind ≠ .exporting → x.mode = .playing → x.pacing = .due →
      let delivered : State → List Rec → Prop := fun v recs => ∃ y, v.ctx r.port = some y ∧
        y.readAhead = x.readAhead ++
          [{ block := some b, start := start, stop := stop, recStart := t0, recs := recs }] ∧
        y.cursor = x.cursor
      ∃ v, exec (.readTenureComplete upsets first) s = .next v ∧
        (∀ recs, source = .buffered recs → delivered v recs ∧ Touches [.ctx, .arbiter] s v) ∧
        (∀ d e, source = .stored → Table.find s.store b = some d → Table.find s.directory b = some e →
          Table.find v.store b = some (d.upset upsets) ∧
          (e.check = some (crc (d.upset upsets).bytes) →
            delivered v (d.upset upsets).content ∧ v.directory = s.directory ∧
            ((d.upset upsets).bytes = recsBytes d.recs → delivered v d.recs) ∧
            Touches [.ctx, .arbiter, .store] s v) ∧
          (e.check ≠ some (crc (d.upset upsets).bytes) →
            delivered v [] ∧ Table.find v.directory b = some { e with state := .damaged } ∧
            (∀ t, s.take? e.owner = some t →
              v.take? e.owner = some { t with damagedSeen := t.damagedSeen + 1 }) ∧
            (v.port r.port).lastDamage = some b ∧
            Touches [.ctx, .arbiter, .store, .directory, .takes, .damage, .out] s v)) ∧
        (source = .damaged → delivered v [] ∧ (v.port r.port).lastDamage = some b ∧
          Touches [.ctx, .arbiter, .damage, .out] s v)) ∧
    (∀ recs, s.arbiter.tenure = some (.read r (some b) start stop t0 (.buffered recs) true) →
      ∃ v, exec (.readTenureComplete upsets first) s = .next v ∧ Touches [.arbiter] s v) ∧
    ∀ block x t, s.arbiter.tenure = some (.read r block start stop t0 source false) →
      s.ctx r.port = some x → x.kind = .exporting → x.mode = .playing → x.readAhead = [] →
      (s.link r.port).isAttached = true → s.take? x.take = some t →
      start ≤ x.cursor → x.cursor < stop → x.cursor < x.endBound →
      x.cursor % 2 = 0 → stop % 2 = 0 → x.endBound % 2 = 0 → t0 % 2 = 0 →
      let p := r.port
      let bytes : Nat → List Byte := fun b => ((Table.find s.store b).map (fun d => (d.upset upsets).bytes)).getD []
      let delivers : List Rec → Nat → List (PortNo × Frame) → Prop := fun recs damaged told =>
        (source = .buffered recs ∧ damaged = 0 ∧ told = []) ∨
        (source = .nothing ∧ recs = [] ∧ damaged = 0 ∧ told = []) ∨
        (∃ b d e, source = .stored ∧ block = some b ∧ Table.find s.store b = some d ∧
          Table.find s.directory b = some e ∧
          if e.check = some (crc (bytes b)) then recs = (d.upset upsets).content ∧ damaged = 0 ∧ told = []
          else recs = [] ∧ damaged = 1 ∧ told = s.noticeTo p (.damagedBlock e.owner t0 stop) ++
            s.noticesTo ((s.portsOf [.desk]).filter (· ≠ p)) (.damagedBlock e.owner t0 stop)) ∨
        (∃ b, source = .damaged ∧ block = some b ∧ recs = [] ∧ damaged = 1 ∧
          told = if (s.port p).lastDamage = some b then [] else s.noticeTo p (.damagedBlock r.take t0 stop))
      let above : Nat → Prop := fun c => (s.link p).clearance < s.levelOf x.take c
      let reach := min stop x.endBound
      let silenced : Prop := x.silenced = true ∨ ∃ c, x.cursor ≤ c ∧ c < reach ∧ c % 2 = 0 ∧ above c
      ∀ recs damaged told, delivers recs damaged told →
      ∃ v sent frames, exec (.readTenureComplete upsets first) s = .next v ∧
        ExportRun recs t0 x.take reach above x.cursor reach frames ∧
        sent.filter (fun e => e.2.isExport) = frames.map (fun f => (p, f)) ∧
        (∀ e ∈ sent, e.2.isExport = true ∨ ∃ c, above c ∧ x.cursor ≤ c ∧ c < reach ∧
          e = (p, .notice (.restrictedSilenced x.take c (s.levelOf x.take c)))) ∧
        (stop < x.endBound → v.out = s.out ++ told ++ sent ∧ ∃ y, v.ctx p = some y ∧
          y.cursor = stop ∧ y.readAhead = [] ∧ y.outstanding = true ∧
          y.damagedCount = x.damagedCount + damaged ∧ (y.silenced = true ↔ silenced)) ∧
        (x.endBound ≤ stop → v.ctx p = none ∧ ∃ (marked : Bool) (u : Take), (marked = true ↔ silenced) ∧
          v.out = s.out ++ told ++ sent ++ s.noticeTo p
            (.exportEnd x.take x.endBound (x.damagedCount + damaged) marked) ∧
          v.take? x.take = some u ∧ u.readers = t.readers - 1 ∧
          u.exported = (t.exported || (x.closedAtBegin && !marked)))

/-- At a grant the lowest-numbered class with a waiting request is served, in classes 1 to 4 at the first waiting
port in ascending order after the class's last, passing from 15 to 0, and class 5 at its oldest step; the port chosen
becomes the class's last, and the lasts are 15 after a reset (R48). -/
def Obligations.GrantServesTheLowestClass : Prop :=
  (∀ s t : State, exec .powerOnReset s = .next t ∨ exec .hardReset s = .next t →
    t.arbiter.lastWrite = 15 ∧ t.arbiter.lastReader = 15 ∧ t.arbiter.lastTypist = 15 ∧
    t.arbiter.lastExport = 15) ∧
  ∀ s : State, s.arbiter.tenure = none →
    let a := s.arbiter
    let b := s.grant.arbiter
    let next : PortNo → List PortNo → PortNo → Prop := fun last waiting p =>
      p ∈ waiting ∧ ∀ q ∈ waiting, (p - last - 1).val ≤ (q - last - 1).val
    let served : CtxKind → PortNo → PortNo → Prop := fun k before after =>
      next before ((a.readsOf k).map (·.port)) after ∧ b.writes = a.writes ∧ b.releases = a.releases ∧
      ∃ r, r ∈ a.readsOf k ∧ r.port = after ∧ b.tenure = some (s.readTenure r) ∧
        b.reads = a.reads.erase r
    (a.writes ≠ [] → next a.lastWrite (a.writes.map (·.port)) b.lastWrite ∧ b.reads = a.reads ∧
      b.releases = a.releases ∧
      ∃ r, a.writes.find? (fun w => w.port = b.lastWrite) = some r ∧ b.tenure = some (.write r) ∧
        b.writes = a.writes.erase r) ∧
    (a.writes = [] → a.readsOf .reader ≠ [] → served .reader a.lastReader b.lastReader) ∧
    (a.writes = [] → a.readsOf .reader = [] → a.readsOf .typist ≠ [] →
      served .typist a.lastTypist b.lastTypist) ∧
    (a.writes = [] → a.readsOf .reader = [] → a.readsOf .typist = [] → a.readsOf .exporting ≠ [] →
      served .exporting a.lastExport b.lastExport) ∧
    (a.writes = [] → a.reads = [] → ∀ take rest, a.releases = take :: rest →
      b = { a with tenure := some (.release take), releases := rest }) ∧
    (a.writes = [] → a.reads = [] → a.releases = [] → b = a)

/-! ### Splitting -/

/-- A chunk is made (R64, R70 to R73, R79): its record with its estimate, due, key, billable length and required
clearance, and what the take's split state, the arrival sequence and the chunk table become; the offer pass that
follows may pick it. -/
def Obligations.PricingOfChunks : Prop :=
  ∀ (s : State) (t : Take) (start stop playStart : Nat) (final : Bool),
    let c := s.newChunk t start stop playStart final
    let q := (s.pool (t.action.target.getD .a)).ratio
    let inPlay : Span → Prop := fun x => x ∈ t.restrictedSpans ∧ max x.start playStart < min x.stop stop
    c.billable * q ≤ 400 * c.estimate ∧ 400 * c.estimate < c.billable * q + 400 ∧
    c.due = (if s.clock + t.action.turnaround ≤ 4294967295 then s.clock + t.action.turnaround
      else 4294967295) ∧
    c.key = (if c.estimate ≤ c.due then c.due - c.estimate else 0) ∧
    (c.billable * q = 0 ↔ c.estimate = 0) ∧
    c.billable = (stop - start) -
      ((t.offRecordSpans stop).map (fun x => min x.stop stop - max x.start start)).sum ∧
    t.action.floor ≤ c.required ∧ (∀ x, inPlay x → x.level ≤ c.required) ∧
    (c.required = t.action.floor ∨ ∃ x, inPlay x ∧ x.level = c.required) ∧
    c = { name := { take := t.id, ordinal := t.nextOrdinal }, ownStart := start, ownEnd := stop
          playStart := playStart, required := c.required, billable := c.billable, estimate := c.estimate
          due := c.due, key := c.key, pool := t.action.target
          state := if t.action.target = none then .parked else .pending, arrival := s.arrivalSeq
          offeree := none, holderStation := none, holderPort := none, heldSince := none
          savedCursor := none, graceTimer := none, lastDecliner := none, noOffer := false
          recallPending := false, reissues := 0, final := final, merged := false } ∧
    (s.take? t.id = some t → s.chunk? c.name = none →
      let v := s.makeChunk t start stop playStart final
      v.take? t.id = some { t with
        cursor := stop, nextOrdinal := t.nextOrdinal + 1, chunksMade := t.chunksMade + 1 } ∧
      (∀ n, n ≠ t.id → v.take? n = s.take? n) ∧
      v.arrivalSeq = s.arrivalSeq + 1 ∧ v.chunks.length = s.chunks.length + 1 ∧
      (∃ d, v.chunk? c.name = some d ∧ d.unpicked = c) ∧
      (t.action.target = none → v.chunks = s.chunks ++ [c]) ∧
      (t.action.target = none → Touches [.takes, .chunks, .chunkSize, .arrivalSeq, .arrivalTop] s v) ∧
      Touches ([.takes, .chunkSize, .arrivalSeq, .arrivalTop] ++ offerParts) s v)

/-- The cut point is the break cue in the window nearest the nominal cut, the earlier of two at one distance, and
the nominal cut itself where the window holds none (R63). The cut test makes each rolling cut that is due whole
before it tests again (R61, R62, R64), then the final split: one chunk, or the merge of a short tail into a last
chunk that is PENDING or PARKED (R67, R68); what it cannot make it defers, with one SPLIT_DEFERRED (R65, R69, R73).
The service of the deferral list goes on from a take that has caught up, while a chunk record is free (R66). That
SEQUENCE_END is the reason where the table is full as well (log 15), and that the offer pass of a new chunk runs
before the next test (log 36), are the model's readings; that SPLIT_DEFERRED goes to the desks in ascending port
order (log 25) is its choice. -/
def Obligations.CutPointIsTheNearestBreak : Prop :=
  (∀ (cues : List Cue) (n w : Nat),
    let inWindow : Nat → Prop := fun time =>
      ∃ c ∈ cues, c.time = time ∧ c.kind.isBreak = true ∧ n ≤ time + w ∧ time ≤ n + w
    let away : Nat → Nat := fun time => (time - n) + (n - time)
    let cut := cutPoint cues n w
    ((∃ time, inWindow time) → inWindow cut ∧ ∀ time, inWindow time →
      away cut < away time ∨ (away cut = away time ∧ cut ≤ time)) ∧
    ((∀ time, ¬ inWindow time) → cut = n)) ∧
  ∀ (s : State) (t : Take) (service : Bool), s.take? t.id = some t →
    let q := s.pool (t.action.target.getD .a)
    let nominal := t.cursor + q.length
    let tested := s.cutTest t.id service
    let due : Prop := t.action.whole = false ∧ nominal + q.window ≤ t.endTime
    let pendingFinal : Prop := t.state = .closed ∧ t.cursor < t.endTime
    let makes : Prop := s.chunks.length < 512 ∧ s.arrivalSeq < 4294967295 ∧
      (s.deferral = [] ∨ service = true)
    let defers : Nat → Prop := fun named =>
      (t.deferred = true → tested = s) ∧
      (t.deferred = false → tested.take? t.id = some { t with deferred := true } ∧
        (∀ n, n ≠ t.id → tested.take? n = s.take? n) ∧ tested.deferral = s.deferral ++ [t.id] ∧
        tested.out = s.out ++ s.deskNotices (.splitDeferred t.id named
          (if s.arrivalSeq < 4294967295 then .tableFull else .sequenceEnd)) ∧
        Touches [.takes, .deferral, .out] s tested)
    let finalChunk : Nat → Nat → Prop := fun start playStart =>
      (makes → tested = s.makeChunk t start t.endTime playStart true) ∧ (¬ makes → defers t.endTime)
    let short : Prop :=
      t.action.whole = false ∧ t.endTime - t.cursor < q.length / 4 ∧ t.chunksMade ≠ 0
    let last : ChunkName := { take := t.id, ordinal := t.nextOrdinal - 1 }
    (t.state = .releasing ∨ (t.deferred = true ∧ service = false) → tested = s) ∧
    (t.state ≠ .releasing → (t.deferred = true → service = true) →
      (due → makes → tested =
        (s.makeChunk t t.cursor (cutPoint t.cues nominal q.window) (t.cursor - q.leadIn) false).cutTest
          t.id service) ∧
      (due → ¬ makes → defers nominal) ∧
      (¬ due → ¬ pendingFinal → tested = s) ∧
      (¬ due → pendingFinal →
        (t.action.whole = true → finalChunk 0 0) ∧
        (t.action.whole = false → ¬ short → finalChunk t.cursor (t.cursor - q.leadIn)) ∧
        (short → (∀ c, s.chunk? last = some c → c.state ≠ .pending ∧ c.state ≠ .parked) →
          finalChunk t.cursor (t.cursor - q.leadIn)) ∧
        (short → ∀ c, s.chunk? last = some c → c.state = .pending ∨ c.state = .parked →
          let b := (t.endTime - c.ownStart) - ((t.offRecordSpans t.endTime).map
            (fun x => min x.stop t.endTime - max x.start c.ownStart)).sum
          let e := (b * (s.pool (c.pool.getD .a)).ratio + 399) / 400
          tested.chunk? last = some { c with
            ownEnd := t.endTime, billable := b, estimate := e, key := c.due - e
            required := max t.action.floor (t.levelOver c.playStart t.endTime)
            merged := true, final := true } ∧
          tested.take? t.id = some { t with cursor := t.endTime } ∧
          (∀ p, (tested.handoff p).reservation ≠ some last) ∧
          tested.chunks.length = s.chunks.length ∧ Touches [.takes, .handoff, .chunks] s tested))) ∧
    State.serveDeferral [] s = s ∧
    ∀ rest u, let w := s.cutTest t.id true
      w.take? t.id = some u →
      let done : Prop :=
        ¬ (u.action.whole = false ∧ u.cursor + (w.pool (u.action.target.getD .a)).length +
          (w.pool (u.action.target.getD .a)).window ≤ u.endTime) ∧
        ¬ (u.state = .closed ∧ u.cursor < u.endTime)
      (¬ done → State.serveDeferral (t.id :: rest) s = w) ∧
      (done → ∃ x, x.take? t.id = some { u with deferred := false } ∧
        (∀ n, n ≠ t.id → x.take? n = w.take? n) ∧ x.deferral = w.deferral.filter (· ≠ t.id) ∧
        Touches [.takes, .deferral] w x ∧
        State.serveDeferral (t.id :: rest) s =
          if w.chunks.length < 512 then State.serveDeferral rest x else x)
end

