-- ==== Sys2Proof/Laws/Commands.lean ====
section
/-!
SUPPORT. Sys2Proof/Laws/Commands.lean: how a command of each kind reaches its owner, what a reply on an attached
port sends, and what an accepted move does.
-/

namespace Sys2Proof.Machine

set_option Elab.async false

/-- `clamp` as a minimum and a maximum. -/
theorem clamp_eq (lo hi n : Nat) (h : lo ≤ hi) : clamp lo hi n = min hi (max lo n) := by
  unfold clamp
  split
  · omega
  · split <;> omega

@[simp] theorem clamp_zero (hi n : Nat) : clamp 0 hi n = min hi n := by
  rw [clamp_eq 0 hi n (Nat.zero_le _), Nat.zero_max]

/-- A reply on a port that takes frames is sent. -/
theorem State.reply_sent {s : State} {c : Cmd} (r : Result) (items : List Item)
    (h : (s.link c.port).takesFrames = true) :
    s.reply c r items = { s with out := s.out ++
      [(c.port, .reply c.tag { code := c.code, result := r, items := items })] } := by
  rw [State.reply_eq]; simp [State.replyTo, State.sentTo, h]

/-- After a good frame an attached port takes frames. -/
theorem State.goodFrame_takesFrames {s : State} {p : PortNo} (h : (s.link p).isAttached = true) :
    ((s.goodFrame p).link p).takesFrames = true :=
  Link.takesFrames_of_isAttached (by simp [h])

/-- A good frame leaves every take. -/
@[simp] theorem State.take?_goodFrame (s : State) (p : PortNo) (n : Nat) :
    (s.goodFrame p).take? n = s.take? n := by
  simp [State.take?]

@[simp] theorem State.linkTake_goodFrame (s : State) (p q : PortNo) :
    (s.goodFrame p).linkTake q = s.linkTake q := by
  simp [State.linkTake]

/-- A good frame leaves every chunk. -/
@[simp] theorem State.chunk?_goodFrame (s : State) (p : PortNo) (n : ChunkName) :
    (s.goodFrame p).chunk? n = s.chunk? n := by
  simp [State.chunk?]

@[simp] theorem State.cuesOf_goodFrame (s : State) (p : PortNo) (n : Nat) :
    (s.goodFrame p).cuesOf n = s.cuesOf n := by
  simp [State.cuesOf]

/-- A command of a role reaches its owner (R155). -/
theorem State.role_run {s : State} {p : PortNo} {r : Role} (h : s.hears p r) (tag : Byte) (code : Nat)
    (f : State → State) :
    s.running (fun s => s.asRole { port := p, tag := tag, code := code } r f) =
      .next (f (s.goodFrame p)) := by
  rw [State.running_eq h.1, State.asRole_hears (by exact h)]

/-- A setting write in SETUP reaches its owner (R157). -/
theorem State.setting_run {s : State} {p : PortNo} (h : s.hears p .desk) (hs : s.opState = .setup)
    (tag : Byte) (code : Nat) (f : State → State) :
    s.running (fun s => s.asSetting { port := p, tag := tag, code := code } f) =
      .next (f (s.goodFrame p)) := by
  rw [State.running_eq h.1]
  simp only [State.asSetting, State.asDesk]
  rw [State.asRole_hears (by exact h)]
  simp [hs]

/-- A setting write in RUN is refused (R157). -/
theorem State.setting_refused {s : State} {p : PortNo} (h : s.hears p .desk) (hs : s.opState = .run)
    (tag : Byte) (code : Nat) (f : State → State) :
    s.running (fun s => s.asSetting { port := p, tag := tag, code := code } f) =
      .next ((s.goodFrame p).refuse { port := p, tag := tag, code := code } .notSetup) := by
  rw [State.running_eq h.1]
  simp only [State.asSetting, State.asDesk]
  rw [State.asRole_hears (by exact h)]
  simp [hs]

/-- A recorder command reaches its owner with the link's take (R23). -/
theorem State.take_run {s : State} {p : PortNo} {t : Take} (h : s.hears p .recorder ∨ s.hears p .reader)
    (ht : s.linkTake p = some t) (tag : Byte) (code : Nat) (f : Bool → State → Take → State) :
    s.running (fun s => s.onTake { port := p, tag := tag, code := code } f) =
      .next (f ((s.link p).state = .quiet) (s.goodFrame p) t) := by
  have hr : s.resetHeld = false := by rcases h with h | h <;> exact h.1
  have ha : (s.link p).isAttached = true := by rcases h with h | h <;> exact h.2.1
  have role : (s.link p).role = some .recorder ∨ (s.link p).role = some .reader :=
    h.imp (·.2.2) (·.2.2)
  rw [State.running_eq hr]
  simp only [State.onTake, State.asRecorder]
  rw [State.onCommand_attached (by exact ha)]
  simp [role, ht]

/-- A pedal command reaches its player (R115). -/
theorem State.player_run {s : State} {p : PortNo} {x : Ctx} (h : s.plays p x) (tag : Byte) (code : Nat)
    (f : State → Ctx → State) :
    s.running (fun s => s.asPlayer { port := p, tag := tag, code := code } f) =
      .next (f (s.goodFrame p) x) := by
  obtain ⟨h, hx⟩ := h
  have hr : s.resetHeld = false := by rcases h with h | h <;> exact h.1
  have ha : (s.link p).isAttached = true := by rcases h with h | h <;> exact h.2.1
  have role : (s.link p).role = some .typist ∨ (s.link p).role = some .reader :=
    h.imp (·.2.2) (·.2.2)
  rw [State.running_eq hr]
  simp only [State.asPlayer]
  rw [State.onCommand_attached (by exact ha)]
  simp [role, hx]

/-! ### Moves -/

/-- What an accepted move leaves on its port (R115, R120): the moved context, the reply, and a PLAY_END behind it
where it stopped at the end bound. -/
theorem State.move_does {g : State} {c : Cmd} (x : Ctx) (h : (g.link c.port).isAttached = true)
    (changed : Bool) (items : List Item) :
    let y := x.moved x.cursor x.stack
    let v := g.move c x changed items
    v.ctx c.port = some y ∧ (∀ q, q ≠ c.port → v.ctx q = g.ctx q) ∧
    v.out = g.out ++
      (c.port, .reply c.tag { code := c.code, result := if changed then .clamped else .ok, items := items ++ [.time x.cursor, .unlisted (.mode y.mode)] }) ::
      (if x.mode ≠ .stopped ∧ x.endBound ≤ x.cursor then
        g.noticeTo c.port (.playEnd x.take x.cursor) else []) := by
  have T := Link.takesFrames_of_isAttached h
  simp only [State.move, State.afterMove, State.ctx_setCtx, if_true]
  by_cases hm : x.mode = .stopped
  · simp only [hm, if_true, State.pedalItems, State.ctx_setCtx, State.replyBoth_eq]
    simp [State.afterMoveReply, State.askReads, Ctx.wantsRead, hm, Ctx.moved, State.reply_out,
      State.replyTo, State.sentTo, T]
    intro q hq; simp [hq]
  · simp only [hm, if_false]
    by_cases he : x.cursor < x.endBound
    · have he' : ¬ x.endBound ≤ x.cursor := by omega
      simp only [he, if_true, State.pedalItems, State.ctx_setCtx, State.replyBoth_eq]
      simp [State.afterMoveReply, State.askReads, Ctx.wantsRead, hm, Ctx.moved, State.reply_out,
        State.replyTo, State.sentTo, T, he', he, Ctx.readTime, Config.readAheadDepth]
      intro q hq; simp [hq]
    · have he' : x.endBound ≤ x.cursor := by omega
      simp only [he, if_false, State.pedalItems, State.ctx_setCtx, State.replyBoth_eq, if_true]
      simp [State.afterMoveReply, hm, he, he', Ctx.moved, State.reply_out, State.notify_out,
        State.replyTo, State.sentTo, T, State.noticeTo]
      intro q hq; simp [hq]

/-- An accepted move touches nothing but the context, the arbiter and the frames sent. -/
theorem State.move_touches (g : State) (c : Cmd) (x : Ctx) (changed : Bool) (items : List Item) :
    Touches [.ctx, .positions, .arbiter, .out] g (g.move c x changed items) :=
  .seq (g.setCtx_touches' _ _) (.seq (ps := [.ctx, .positions, .arbiter, .out])
    (State.afterMove_touches _ _) (.seq (ps := [.ctx, .positions, .arbiter, .out])
      (State.reply_touches _ _ _ _) (State.afterMoveReply_touches _ _ _)))

end Sys2Proof.Machine
end

