-- ==== Sys2Proof/Tests/Slice0.lean ====
section
/-!
SUPPORT. Sys2Proof/Tests/Slice0.lean: the author's own tests: the well-formedness smoke test, a few bytes of the
line, single steps of the manual's worked examples (named by their section), and for each obligation with
hypotheses a concrete state that meets them.
-/

namespace Sys2Proof.Tests

-- one declaration after another: each kernel evaluation in its own thread would ask for too many stacks
set_option Elab.async false

open Sys2Proof.Machine

/-! ### An office to test in -/

/-- The record of an attached port. -/
def linkOf (role : Role) (station clearance : Nat) : Link :=
  { Link.reset with state := .attached, role := some role, station := some station,
                    clearance := clearance, quietTimer := true, sendTimer := true }

/-- An office in RUN at clock 37,815: desks on ports 0 and 1, a recorder on port 3, typists on ports 5, 8 and 12
(the stations of 1.9, 5.9 and 7.6), and a LISTENING port 2. -/
def office : State :=
  let s := { State.reset with opState := .run, clock := 37815 }
  let s := s.setLink 0 (linkOf .desk 11 2)
  let s := s.setLink 1 (linkOf .desk 12 3)
  let s := s.setLink 2 { Link.reset with state := .listening, sendTimer := true }
  let s := s.setLink 3 (linkOf .recorder 2041 0)
  let s := s.setLink 5 (linkOf .typist 4402 3)
  let s := s.setLink 8 (linkOf .typist 7310 1)
  s.setLink 12 (linkOf .typist 9015 0)

/-- The office in SETUP. -/
def setup : State := { office with opState := .setup }

/-- The state after a command. -/
def after (c : Instr) (s : State) : State :=
  match exec c s with
  | .next t => t
  | .fault _ => s
  | .refused _ => s

/-- The action of 4.10: pool A, turnaround 14,400 s. -/
def inA : Action := { target := some .a, turnaround := 14400, whole := false, floor := 0 }

/-- A take of station 2,041 as it stands at E = `stop`, with nothing stored. -/
def takeOf (id : Nat) (st : TakeState) (p : Option PortNo) (stop : Nat) : Take :=
  { id := id, matter := 200, action := inA, state := st, recPort := p, station := 2041
    openedAt := 32400, closedAt := none, endTime := stop, chain := [], cues := [], offRecordOpen := false
    restrictOpen := none, cursor := 0, nextOrdinal := 1, deferred := false, chunksMade := 0
    chunksFinished := 0, damagedSeen := 0, exported := false, readers := 0 }

/-- A cue of a recorder. -/
def cueOf (index time : Nat) (kind : CueKind) (value : Option Nat) (arrival : Nat) : Cue :=
  { index := index, time := time, kind := kind, arrival := arrival, value := value, origin := .recorder }

/-- The office with one take. -/
def withTake (t : Take) : State := { office with takes := [(0, t)], cueArrival := t.cues.length }

/-- A chunk of a take, with a required clearance. -/
def chunkOf (take ordinal start stop : Nat) (k : Option PoolId) (st : ChunkState)
    (arrival key required : Nat) : Chunk :=
  { name := { take := take, ordinal := ordinal }, ownStart := start, ownEnd := stop, playStart := start
    required := required, billable := stop - start, estimate := 1000, due := key + 1000, key := key
    pool := k, state := st, arrival := arrival, offeree := none, holderStation := none
    holderPort := none, heldSince := none, savedCursor := none, graceTimer := none
    lastDecliner := none, noOffer := false, recallPending := false, reissues := 0, final := false
    merged := false }

/-- A stopped context. -/
def ctxOf (take : Nat) (kind : CtxKind) (start stop cursor : Nat) : Ctx :=
  { take := take, kind := kind, startBound := start, endBound := stop, cursor := cursor
    mode := .stopped, pacing := .onData, stack := [], readAhead := [], outstanding := false
    stretch := false, damagedCount := 0, silenced := false, closedAtBegin := false }

/-- Forty coded bytes. -/
def sound : Coded := Vector.replicate 40 0x55#8

/-! ### Well-formedness: one ill-formed command for each check -/

theorem test_wf_byte_operands :
    (Instr.audioSilence 3 256).wellFormed = false ∧ (Instr.restrictBegin 3 7 256).wellFormed = false ∧
    (Instr.ready 8 7 256).wellFormed = false ∧ (Instr.peek 8 7 256).wellFormed = false ∧
    (Instr.getFilter 0 7 256).wellFormed = false ∧ (Instr.getPool 0 7 256).wellFormed = false ∧
    (Instr.commandUnknown 0 7 256).wellFormed = false ∧
    (Instr.commandUnknown 0 7 0x4F).wellFormed = false := by decide

theorem test_wf_attach :
    (Instr.attach 2 7 65536 1 0).wellFormed = false ∧ (Instr.attach 2 7 1 256 0).wellFormed = false ∧
    (Instr.attach 2 7 1 1 4294967296).wellFormed = false ∧
    (Instr.setMask 2 7 4294967296).wellFormed = false := by decide

theorem test_wf_recorder :
    (Instr.openTake 3 7 4294967296).wellFormed = false ∧
    (Instr.openTakeContinue 3 7 4294967296 1).wellFormed = false ∧
    (Instr.openTakeContinue 3 7 0 65536).wellFormed = false ∧
    (Instr.mark 3 7 256 0).wellFormed = false ∧ (Instr.mark 3 7 1 65536).wellFormed = false ∧
    (Instr.readbackBegin 3 7 256 0).wellFormed = false ∧
    (Instr.readbackBegin 3 7 1 16777216).wellFormed = false := by decide

theorem test_wf_players :
    (Instr.stepBack 8 7 16777216).wellFormed = false ∧ (Instr.stepAhead 8 7 16777216).wellFormed = false ∧
    (Instr.seek 8 7 16777216).wellFormed = false ∧ (Instr.jumpTime 8 7 16777216).wellFormed = false ∧
    (Instr.seekCue 8 7 256 0).wellFormed = false ∧ (Instr.seekCue 8 7 1 65536).wellFormed = false ∧
    (Instr.jumpCue 8 7 65536).wellFormed = false := by decide

theorem test_wf_typists :
    (Instr.accept 8 7 65536 1).wellFormed = false ∧ (Instr.accept 8 7 1 65536).wellFormed = false ∧
    (Instr.decline 8 7 65536 1).wellFormed = false ∧ (Instr.decline 8 7 1 65536).wellFormed = false ∧
    (Instr.finish 8 7 65536).wellFormed = false ∧
    (Instr.graceTimerExpiry 65536 1).wellFormed = false ∧
    (Instr.graceTimerExpiry 1 65536).wellFormed = false := by decide

theorem test_wf_desks :
    (Instr.closeTakeDesk 0 7 65536).wellFormed = false ∧ (Instr.releaseTake 0 7 65536).wellFormed = false ∧
    (Instr.exportBegin 0 7 65536).wellFormed = false ∧
    (Instr.restrictSpan 0 7 65536 0 2 1).wellFormed = false ∧
    (Instr.restrictSpan 0 7 1 16777216 2 1).wellFormed = false ∧
    (Instr.restrictSpan 0 7 1 0 16777216 1).wellFormed = false ∧
    (Instr.restrictSpan 0 7 1 0 2 256).wellFormed = false ∧
    (Instr.recall 0 7 65536 1).wellFormed = false ∧ (Instr.recall 0 7 1 65536).wellFormed = false ∧
    (Instr.repool 0 7 65536 1 1).wellFormed = false ∧ (Instr.repool 0 7 1 65536 1).wellFormed = false ∧
    (Instr.repool 0 7 1 1 256).wellFormed = false ∧
    (Instr.fetchLog 0 7 16777216).wellFormed = false := by decide

theorem test_wf_office :
    (Instr.setClock 0 7 4294967296).wellFormed = false ∧
    (Instr.setClearance 0 7 65536 1).wellFormed = false ∧
    (Instr.setClearance 0 7 1 256).wellFormed = false ∧
    (Instr.getClearance 0 7 65536).wellFormed = false ∧
    (Instr.listTakes 0 7 4294967296).wellFormed = false ∧
    (Instr.listCues 0 7 65536 0).wellFormed = false ∧
    (Instr.listCues 0 7 1 4294967296).wellFormed = false ∧
    (Instr.listChunks 0 7 256 0 0).wellFormed = false ∧
    (Instr.listChunks 0 7 1 65536 0).wellFormed = false ∧
    (Instr.listChunks 0 7 1 1 4294967296).wellFormed = false := by decide

theorem test_wf_filter :
    (Instr.setFilter 0 7 256 1 1 0 0 1 0 0 0).wellFormed = false ∧
    (Instr.setFilter 0 7 0 256 1 0 0 1 0 0 0).wellFormed = false ∧
    (Instr.setFilter 0 7 0 1 256 0 0 1 0 0 0).wellFormed = false ∧
    (Instr.setFilter 0 7 0 1 1 4294967296 0 1 0 0 0).wellFormed = false ∧
    (Instr.setFilter 0 7 0 1 1 0 4294967296 1 0 0 0).wellFormed = false ∧
    (Instr.setFilter 0 7 0 1 1 0 0 256 0 0 0).wellFormed = false ∧
    (Instr.setFilter 0 7 0 1 1 0 0 1 16777216 0 0).wellFormed = false ∧
    (Instr.setFilter 0 7 0 1 1 0 0 1 0 256 0).wellFormed = false ∧
    (Instr.setFilter 0 7 0 1 1 0 0 1 0 0 256).wellFormed = false := by decide

theorem test_wf_settings :
    (Instr.setDefaultAction 0 7 256 0 0 0).wellFormed = false ∧
    (Instr.setDefaultAction 0 7 1 16777216 0 0).wellFormed = false ∧
    (Instr.setDefaultAction 0 7 1 0 256 0).wellFormed = false ∧
    (Instr.setDefaultAction 0 7 1 0 0 256).wellFormed = false ∧
    (Instr.setPauseThreshold 0 7 16777216).wellFormed = false ∧
    (Instr.setWatermark 0 7 16777216).wellFormed = false ∧
    (Instr.setOfferTimeout 0 7 16777216).wellFormed = false ∧
    (Instr.setGrace 0 7 16777216).wellFormed = false ∧
    (Instr.setDropTime 0 7 16777216).wellFormed = false := by decide

theorem test_wf_pools :
    (Instr.setPoolSplit 0 7 256 0 0 0 0).wellFormed = false ∧
    (Instr.setPoolSplit 0 7 1 16777216 0 0 0).wellFormed = false ∧
    (Instr.setPoolSplit 0 7 1 0 16777216 0 0).wellFormed = false ∧
    (Instr.setPoolSplit 0 7 1 0 0 16777216 0).wellFormed = false ∧
    (Instr.setPoolSplit 0 7 1 0 0 0 256).wellFormed = false ∧
    (Instr.setPoolMode 0 7 256 1 0).wellFormed = false ∧
    (Instr.setPoolMode 0 7 1 256 0).wellFormed = false ∧
    (Instr.setPoolMode 0 7 1 1 256).wellFormed = false ∧
    (Instr.readTenureComplete [{ offset := 4096, byte := 0 }] true).wellFormed = false := by decide

/-! ### Bytes of the line -/

/-- The table gives bits for no row, so no word spells a command. -/
theorem test_no_word : decodeTableWord 8 0x22 = none := by decide

/-- The check of R46 over the nine digits, the value every text on this check gives. -/
theorem test_check : crc [0x31#8, 0x32#8, 0x33#8, 0x34#8, 0x35#8, 0x36#8, 0x37#8, 0x38#8, 0x39#8] =
    0x29B1#16 := by decide +kernel

/-- An IDLE frame: kind 0, tag 0, length 0 and the check of those three bytes, taken off the line. -/
theorem test_idle_received :
    received 4 (escape ([0x00#8, 0x00#8, 0x00#8] ++ bytes16 (crc [0x00#8, 0x00#8, 0x00#8]))) = .idle 4 := by
  decide +kernel

/-- A COMMAND frame of STEP_BACK(300): kind 1, tag 9, length 4, code 0x22, 300 in three bytes (11.2, 11.3). -/
theorem test_step_back_received :
    let covered := [0x01#8, 0x09#8, 0x04#8, 0x22#8, 0x00#8, 0x01#8, 0x2C#8]
    received 8 (escape (covered ++ bytes16 (crc covered))) = .stepBack 8 9 300 := by decide +kernel

/-- The same frame with one bit of its check wrong is a bad frame (R145). -/
theorem test_bad_check :
    let covered := [0x01#8, 0x09#8, 0x04#8, 0x22#8, 0x00#8, 0x01#8, 0x2C#8]
    received 8 (escape (covered ++ bytes16 (crc covered ^^^ 1#16))) = .badFrame 8 := by decide +kernel

/-- A 0x7D before the next start marker is a bad frame, and an unknown code is the unknown command (R155, R166). -/
theorem test_dangling_and_unknown :
    received 8 [0x00#8, 0x7D#8] = .badFrame 8 ∧
    (let covered := [0x01#8, 0x09#8, 0x01#8, 0x60#8]
     received 8 (escape (covered ++ bytes16 (crc covered))) = .commandUnknown 8 9 0x60) := by
  decide +kernel

/-- The bytes of a line: what stands before the first start marker starts no frame, a start marker ends the frame
before it and starts the next, and a line break ends the last (R166). -/
theorem test_line_is_cut :
    let idle := (escape ([0x00#8, 0x00#8, 0x00#8] ++ bytes16 (crc [0x00#8, 0x00#8, 0x00#8]))).map LineEvent.byte
    heard 4 none ([.byte 0x11#8, .byte 0x7E#8] ++ idle ++ [.byte 0x7E#8, .byte 0x7D#8, .byte 0x7E#8] ++ idle ++
      [.lineBreak, .byte 0x00#8]) = [.idle 4, .badFrame 4, .idle 4, .lineBreak 4] := by decide +kernel

/-- An OPEN_TAKE body shorter than its matter code is a bad frame (R167). -/
theorem test_short_open_take :
    let covered := [0x01#8, 0x09#8, 0x04#8, 0x10#8, 0x00#8, 0x00#8, 0xC8#8]
    received 3 (escape (covered ++ bytes16 (crc covered))) = .badFrame 3 := by decide +kernel

/-- An operand byte equal to the start marker goes out escaped: 0x7E becomes 0x7D 0x5E (R166). -/
theorem test_escape : escape [0x01#8, 0x7E#8, 0x7D#8] = [0x01#8, 0x7D#8, 0x5E#8, 0x7D#8, 0x5D#8] := by
  decide

/-- A cue record is 16 bytes with the value's absence as 0xFFFFFF (11.4): the AUTO_PAUSE cue of 1.9. -/
theorem test_cue_bytes :
    cueBytes 1 { cueOf 2 24074 .autoPause none 2 with origin := .auto } =
      [0x00#8, 0x01#8, 0x00#8, 0x02#8, 0x00#8, 0x5E#8, 0x0A#8, 0x04#8, 0x02#8, 0xFF#8, 0xFF#8, 0xFF#8,
        0x00#8, 0x00#8, 0x00#8, 0x02#8] := by decide

/-! ### Resets and links (9.8, R144 to R156) -/

/-- Station 7,310 of 9.8 holds chunk 14/2 on port 8, its context at cursor 44,200. -/
def holding : State :=
  let s := withTake { takeOf 14 .recording (some 3) 61370 with readers := 1 }
  let s := { s with chunks := [{ chunkOf 14 2 29870 59100 (some .a) .held 211 51392 0 with
    playStart := 29370, holderStation := some 7310, holderPort := some 8, heldSince := some 38200 }] }
  s.setCtx 8 (some { ctxOf 14 .typist 29370 59100 44200 with mode := .playing, pacing := .due })

/-- `holding` with an error count on port 8. -/
def counted (n : Nat) (warning : Bool) : State :=
  holding.setLink 8 { linkOf .typist 7310 1 with errorCount := n, warning := warning }

theorem test_power_on_frees_the_takes : (after .powerOnReset holding).takes = [] := by decide +kernel

theorem test_hard_reset_releases_the_pin :
    (after .hardReset { holding with resetHeld := true }).resetHeld = false := by decide +kernel

theorem test_pin_holds_the_part :
    (after .resetPinAsserted holding).resetHeld = true ∧ (after .resetPinAsserted holding).chunks = [] := by
  decide +kernel

theorem test_carrier_finds_the_latch :
    ((after (.carrierArrives 8) (office.setLink 8 { Link.reset with
      errorCount := 255, warning := true, faultLatch := true })).link 8).state = .faulted ∧
    ((after (.carrierArrives 9) office).link 9).state = .listening := by decide +kernel

theorem test_carrier_loss_lapses_the_hold :
    (after (.carrierLost 8) holding).chunks.map (fun c => (c.state, c.savedCursor, c.holderStation)) =
      [(.lapsing, some 44200, some 7310)] ∧
    ((after (.carrierLost 8) holding).take? 14).map (·.readers) = some 0 := by decide +kernel

theorem test_line_break_clears_the_latch :
    ((after (.lineBreak 8) (office.setLink 8 { Link.reset with
      state := .faulted, errorCount := 255, warning := true, faultLatch := true })).link 8) =
      { Link.reset with state := .listening, sendTimer := true } := by decide +kernel

theorem test_twelfth_bad_frame_warns :
    ((after (.badFrame 8) (counted 88 false)).link 8).errorCount = 96 ∧
    (after (.badFrame 8) (counted 88 false)).out = [(8, .notice (.linkWarning 96))] := by decide +kernel

theorem test_last_bad_frame_faults :
    ((after (.badFrame 8) (counted 252 true)).link 8).state = .faulted ∧
    (after (.badFrame 8) (counted 252 true)).chunks.map (·.state) = [.lapsing] ∧
    (after (.badFrame 8) (counted 252 true)).out = [] := by decide +kernel

theorem test_faulted_port_ignores :
    (after (.frameIgnoredFaulted 8) (after (.badFrame 8) (counted 252 true))).out = [] := by decide +kernel

theorem test_good_frame_ends_the_warning :
    ((after (.idle 8) (counted 96 true)).link 8).errorCount = 95 ∧
    ((after (.idle 8) (counted 96 true)).link 8).warning = false := by decide +kernel

theorem test_unknown_code :
    (after (.commandUnknown 8 7 0x60) office).out =
      [(8, .reply 7 ⟨0x60, .refused .unknown none, []⟩)] := by decide +kernel

theorem test_attach :
    (after (.attach 2 7 5120 2 0) { office with clearances := [(5120, 1)] }).out =
      [(2, .reply 7 ⟨0x01, .ok, [.port 2, .role (some .typist), .level 1]⟩)] := by decide +kernel

theorem test_attach_station_in_use :
    (after (.attach 2 7 7310 2 0) office).out =
      [(2, .reply 7 ⟨0x01, .refused .inUse none, []⟩)] := by decide +kernel

theorem test_detach_orphans :
    let s := after (.detach 3 7) (withTake (takeOf 1 .recording (some 3) 33700))
    (s.take? 1).map (fun t => (t.state, t.recPort, t.cues.map (·.kind))) =
      some (.paused, none, [.linkQuiet]) ∧ (s.link 3).state = .listening := by decide +kernel

theorem test_mask_beyond_the_notices :
    (after (.setMask 0 7 262144) office).out = [(0, .reply 7 ⟨0x03, .refused .noSuch none, []⟩)] := by
  decide +kernel

theorem test_quiet_pauses_the_take :
    let s := after (.quietTimerExpiry 3) (withTake (takeOf 1 .recording (some 3) 33700))
    (s.link 3).dropTimer = some 60 ∧ (s.take? 1).map (·.state) = some .paused := by decide +kernel

theorem test_drop_lapses_the_hold :
    let s := after (.dropTimerExpiry 8) (holding.setLink 8 { linkOf .typist 7310 1 with
      state := .quiet, quietTimer := false, dropTimer := some 60 })
    (s.link 8).state = .listening ∧ s.chunks.map (·.graceTimer) = [some 600] := by decide +kernel

theorem test_send_timer : (after (.sendTimerExpiry 8) office).out = [(8, .idle)] := by decide +kernel

/-! ### Takes, cues and the filter (1.9, 2.2, 2.10) -/

/-- Take 1 of 1.9 at E = 31,020, as RESTRICT_BEGIN arrives. -/
def take1 : Take :=
  { takeOf 1 .recording (some 3) 31020 with
    cues := [cueOf 0 18240 .offRecordBegin none 0, cueOf 1 20100 .offRecordEnd (some 0) 1,
             { cueOf 2 24074 .autoPause none 2 with origin := .auto }] }

/-- Take 1 at E = 33,700, paused, chunk 1 made at 31,020. -/
def take1Paused : Take :=
  { take1 with
    state := .paused, endTime := 33700, restrictOpen := some 3, cursor := 31020, nextOrdinal := 2
    chunksMade := 1
    cues := take1.cues ++ [cueOf 3 31020 .restrictBegin (some 2) 3, cueOf 4 33700 .pause none 4] }

/-- Take 1 at E = 36,000, as the desk's span arrives. -/
def take1Restricted : Take :=
  { take1Paused with
    state := .recording, endTime := 36000, restrictOpen := none
    cues := take1Paused.cues ++ [cueOf 5 33700 .resume none 5, cueOf 6 36000 .restrictEnd (some 3) 6] }

/-- The office at that moment, chunk 1 HELD. -/
def restricted : State :=
  { withTake take1Restricted with
    chunks := [{ chunkOf 1 1 0 31020 (some .a) .held 0 50000 0 with
      holderStation := some 7310, holderPort := some 8, heldSince := some 33000 }]
    arrivalSeq := 1 }

theorem test_open_take :
    (after (.openTake 3 7 200) office).out = [(3, .reply 7 ⟨0x10, .ok, [.takeId 1]⟩)] ∧
    (after (.openTake 3 7 200) office).takeIdCounter = 2 := by decide +kernel

theorem test_open_take_in_setup :
    (after (.openTake 3 7 200) setup).out = [(3, .reply 7 ⟨0x10, .refused .notRunning none, []⟩)] := by
  decide +kernel

theorem test_continue :
    ((after (.openTakeContinue 3 7 0 1) (withTake { take1Paused with recPort := none })).take? 1).map
      (fun t => (t.state, t.recPort, t.endTime)) = some (.paused, some 3, 33700) := by decide +kernel

theorem test_restrict_begin :
    ((after (.restrictBegin 3 7 2) (withTake take1)).take? 1).map
      (fun t => (t.restrictOpen, t.cues.getLast?)) =
      some (some 3, some (cueOf 3 31020 .restrictBegin (some 2) 3)) := by decide +kernel

theorem test_restrict_end_names_its_begin :
    ((after (.restrictEnd 3 7) (withTake take1Paused)).take? 1).map
      (fun t => (t.restrictOpen, t.cues.getLast?.map (fun c => (c.kind, c.value)))) =
      some (none, some (.restrictEnd, some 3)) := by decide +kernel

theorem test_off_record_begin :
    ((after (.offRecordBegin 3 7) (withTake (takeOf 1 .recording (some 3) 18240))).take? 1).map
      (fun t => (t.offRecordOpen, t.cues)) =
      some (true, [cueOf 0 18240 .offRecordBegin none 0]) := by decide +kernel

theorem test_off_record_end :
    ((after (.offRecordEnd 3 7) (withTake { takeOf 1 .recording (some 3) 20100 with
      offRecordOpen := true, cues := [cueOf 0 18240 .offRecordBegin none 0] })).take? 1).map
      (fun t => (t.offRecordOpen, t.cues.getLast?)) =
      some (false, some (cueOf 1 20100 .offRecordEnd (some 0) 1)) := by decide +kernel

theorem test_pause :
    ((after (.pause 3 7) (withTake { take1Paused with
      state := .recording, cues := take1Paused.cues.take 4 })).take? 1).map
      (fun t => (t.state, t.cues)) = some (.paused, take1Paused.cues) := by decide +kernel

theorem test_resume :
    ((after (.resume 3 7) (withTake take1Paused)).take? 1).map (fun t => (t.state, t.cues.getLast?)) =
      some (.recording, some (cueOf 5 33700 .resume none 5)) := by decide +kernel

theorem test_speaker_is_clamped :
    (after (.mark 3 7 1 64) (withTake take1)).out = [(3, .reply 7 ⟨0x14, .clamped, [.number 63]⟩)] := by
  decide +kernel

theorem test_restrict_span :
    (after (.restrictSpan 0 7 1 29001 30500 3) restricted).out =
      [(0, .reply 7 ⟨0x41, .clamped, [.time 29000, .time 30500, .level 3]⟩)] ∧
    (after (.restrictSpan 0 7 1 29001 30500 3) restricted).chunks.map (·.required) = [3] := by
  decide +kernel

theorem test_restrict_span_cue_order :
    ((after (.restrictSpan 0 7 1 29001 30500 3) restricted).take? 1).map
      (fun t => (t.cues.map (·.index), t.levelAt 29000, t.levelAt 30500, t.levelAt 31020)) =
      some ([0, 1, 2, 7, 8, 3, 4, 5, 6], 3, 0, 2) := by decide +kernel

theorem test_close_take_makes_chunk_2 :
    (after (.closeTake 3 7) { restricted with
      takes := [(0, { take1Restricted with endTime := 40000 })] }).chunks.map (fun c => (c.ownStart, c.ownEnd, c.playStart, c.required, c.final)) =
      [(0, 31020, 0, 0, false), (31020, 40000, 30520, 2, true)] := by decide +kernel

theorem test_desk_close_of_a_readback :
    (after (.closeTakeDesk 0 7 22) (withTake (takeOf 22 .readback (some 3) 84300))).out =
      [(0, .reply 7 ⟨0x40, .refused .takeBusy none, []⟩)] := by decide +kernel

theorem test_desk_close_of_an_orphan :
    ((after (.closeTakeDesk 0 7 22) (withTake (takeOf 22 .paused none 0))).take? 22).map
      (fun t => (t.state, t.closedAt)) = some (.closed, some 37815) := by decide +kernel

/-- A filter element. -/
def elemOf (on : Bool) (kind : FilterKind) (first second : Nat) (action : Action) : FilterElem :=
  { enabled := on, kind := kind, first := first, second := second, action := action }

/-- The filter of 2.2. -/
def filtered : State :=
  let f := setup.filter.set 0 (elemOf true .pair 117560556 117560557
    { target := none, turnaround := 172800, whole := false, floor := 2 })
  let f := f.set 1 (elemOf true .range 117440512 134217727
    { target := some .b, turnaround := 14400, whole := false, floor := 0 })
  let f := f.set 3 (elemOf true .mask 201326592 4278190080
    { target := some .c, turnaround := 600, whole := true, floor := 1 })
  let f := f.set 4 (elemOf true .range 300 100
    { target := some .d, turnaround := 3600, whole := false, floor := 0 })
  { setup with filter := f }

theorem test_filter :
    filtered.actionFor 117560557 = { target := none, turnaround := 172800, whole := false, floor := 2 } ∧
    filtered.actionFor 117500000 = { target := some .b, turnaround := 14400, whole := false, floor := 0 } ∧
    filtered.actionFor 201400000 = { target := some .c, turnaround := 600, whole := true, floor := 1 } ∧
    filtered.actionFor 200 = { target := some .a, turnaround := 86400, whole := false, floor := 0 } := by
  decide +kernel

theorem test_set_filter_clamps :
    (after (.setFilter 0 7 3 1 2 201326592 4278190080 3 300 1 1) setup).filter[3] = filtered.filter[3] ∧
    ((after (.setFilter 0 7 3 1 2 201326592 4278190080 3 300 1 1) setup).out.map (fun e =>
      match e.2 with | .reply _ r => r.result | _ => .ok)) = [.clamped] := by decide +kernel

/-- Take 9 of 2.10 at E = 120,000: buffer 0 holds 4,060 bytes of block 5,000 and buffer 1 is being written. -/
def short : State :=
  let recs := List.replicate 96 (Rec.speech sound) ++ List.replicate 13 (.silence 28) ++ [.silence 35]
  let entry : BlockState → Nat → DirEntry := fun st start =>
    { state := st, owner := 9, port := some 3, start := start, duration := none, bytesUsed := none
      check := none }
  let s := withTake { takeOf 9 .recording (some 3) 120000 with
    cursor := 118000, chain := [(4999, 118020), (5000, 119010)] }
  let s := { s with
    free := { fresh := 131072, returned := [] }
    directory := [(4999, { entry .writing 118020 with duration := some 990, bytesUsed := some 4060 }),
                  (5000, entry .assembling 119010)]
    lowFlag := true
    arbiter := { Arbiter.reset with tenure := some (.release 2) } }
  s.setIntake 3 { buf0 := .assembling 5000 9 119010 recs, buf1 := .writing 4999 9 118020 [], run := none
                  gap := none, starving := false, discard := false }

/-- The same port later, at E = `stop` and with its gap noted at 120,000 and buffer 1 EMPTY. -/
def shorter (stop : Nat) (starving : Bool) (run : Option Run) : State :=
  let s := { short with takes := [(0, { takeOf 9 .recording (some 3) stop with
    cursor := 118000, chain := [(4999, 118020), (5000, 119010)] })] }
  s.setIntake 3 { buf0 := .writing 5000 9 119010 [], buf1 := .empty, run := run, gap := some 120000
                  starving := starving, discard := false }

theorem test_overrun_loss :
    let s := after (.audioSpeech 3 sound) short
    (s.intake 3).buf0.isOpenFor 9 = false ∧ (s.intake 3).gap = some 120000 ∧
    (s.intake 3).starving = false ∧ (s.take? 9).map (·.endTime) = some 120002 ∧ s.out = [] := by
  decide +kernel

theorem test_starving_loss :
    let s := after (.audioSpeech 3 sound) (shorter 120050 false none)
    (s.intake 3).starving = true ∧
    s.out = [(0, .notice (.storeEmpty 9 120000)), (1, .notice (.storeEmpty 9 120000)),
             (3, .notice (.storeEmpty 9 120000))] := by decide +kernel

theorem test_silence_reaches_the_threshold :
    let s := after (.audioSilence 3 100) (shorter 120052 true none)
    (s.intake 3).run = some { start := 120052, length := 200, attempted := true } ∧
    (s.take? 9).map (fun t => (t.endTime, t.cues.map (fun c => (c.kind, c.time)))) =
      some (120252, [(.autoPause, 120126)]) := by decide +kernel

theorem test_block_ends_the_gap :
    let s := after (.audioSpeech 3 sound) { shorter 120252 true
      (some { start := 120052, length := 200, attempted := true }) with
      free := { fresh := 131072, returned := [77] } }
    (s.intake 3).gap = none ∧ (s.intake 3).run = none ∧
    (s.take? 9).map (fun t => (t.chain.getLast?, t.cues.map (fun c => (c.kind, c.time, c.value)))) =
      some (some (77, 120252), [(.gap, 120000, some 252)]) := by decide +kernel

theorem test_silence_clamped :
    ((after (.audioSilence 3 255) (withTake (takeOf 1 .recording (some 3) 0))).take? 1).map
      (·.endTime) = some 500 := by decide +kernel

/-! ### Splitting (4.10) -/

/-- Take 14 of 4.10 at E = `stop`, with the break cues of its table. -/
def take14 (stop cursor ordinal made : Nat) : Take :=
  { takeOf 14 .recording (some 3) stop with
    cursor := cursor, nextOrdinal := ordinal, chunksMade := made
    cues := [cueOf 0 28900 .speaker (some 1) 0, cueOf 1 29870 .autoPause none 1,
             cueOf 2 31200 .speaker (some 2) 2, cueOf 3 40000 .offRecordBegin none 3,
             cueOf 4 41200 .offRecordEnd (some 3) 4, cueOf 5 59100 .autoPause none 5,
             cueOf 6 60950 .speaker (some 3) 6] }

/-- Chunk 2 of take 14, in a state. -/
def chunk2 (st : ChunkState) : Chunk :=
  { chunkOf 14 2 29870 59100 (some .a) st 211 51392 0 with
    playStart := 29370, billable := 28030, estimate := 1122, due := 52514 }

/-- The close of take 14 with chunk 2 in a state. -/
def closed14 (st : ChunkState) : State :=
  after (.closeTake 3 7) { withTake (take14 66000 59100 3 2) with
    clock := 38160, arrivalSeq := 212, chunks := [chunk2 st] }

theorem test_first_cut :
    (after (.audioSpeech 3 sound) { withTake (take14 31498 0 1 0) with arrivalSeq := 210 }).chunks.map
      (fun c => ((c.ownStart, c.ownEnd, c.playStart, c.billable), c.estimate, c.due, c.key, c.arrival)) =
      [((0, 29870, 0, 29870), 1195, 52215, 51020, 210)] := by decide +kernel

theorem test_second_cut :
    (after (.audioSpeech 3 sound)
      { withTake (take14 61368 29870 2 1) with clock := 38114, arrivalSeq := 211 }).chunks.map
      (fun c => ((c.ownStart, c.ownEnd, c.playStart, c.billable), c.estimate, c.due, c.key, c.arrival)) =
      [((29870, 59100, 29370, 28030), 1122, 52514, 51392, 211)] := by decide +kernel

theorem test_short_tail_merges :
    (closed14 .pending).chunks.map
      (fun c => ((c.ownEnd, c.playStart, c.billable, c.estimate), c.due, c.key, c.merged, c.final)) =
      [((66000, 29370, 34930, 1398), 52514, 51116, true, true)] ∧
    (closed14 .pending).arrivalSeq = 212 := by decide +kernel

theorem test_short_tail_of_a_held_chunk :
    ((closed14 .held).chunks.drop 1).map
      (fun c => ((c.ownStart, c.ownEnd, c.playStart, c.estimate), c.due, c.key, c.arrival, c.final)) =
      [((59100, 66000, 58600, 276), 52560, 52284, 212, true)] := by decide +kernel

/-! ### Players and readback (7.4, 8.5) -/

/-- Port 8 of 7.4 at a cursor, with the chunk's bounds and the cues of 4.10 and the desk's span. -/
def player (x : Ctx) : State :=
  let t := { take14 61370 59100 3 2 with readers := 1 }
  (withTake { t with cues := t.cues ++ [cueOf 7 45000 .restrictBegin (some 2) 7,
    cueOf 8 46000 .restrictEnd (some 7) 8] }).setCtx 8 (some x)

/-- Its context, stopped. -/
def stoppedAt (cursor : Nat) : Ctx := ctxOf 14 .typist 29370 59100 cursor

/-- Its context, playing with the result of block 6,290 held. -/
def playingAt (cursor : Nat) : Ctx :=
  { stoppedAt cursor with
    mode := .playing, pacing := .due
    readAhead := [{ block := some 6290, start := 44850, stop := 45044, recStart := 44850,
                    recs := List.replicate 97 (.speech sound) }] }

theorem test_play_asks_the_read :
    let s := after (.play 8 7) (player (stoppedAt 29370))
    (s.ctx 8).map (fun x => (x.cursor, x.mode, x.outstanding)) = some (29370, .playing, true) ∧
    s.out = [(8, .reply 7 ⟨0x20, .ok, [.time 29370, .unlisted (.mode .playing)]⟩)] := by decide +kernel

theorem test_jump_time :
    let s := after (.jumpTime 8 7 44901) (player { playingAt 29612 with readAhead := [] })
    (s.ctx 8).map (fun x => (x.cursor, x.mode, x.stack)) = some (44900, .playing, [29612]) ∧
    s.out = [(8, .reply 7 ⟨0x26, .clamped, [.time 44900, .unlisted (.mode .playing)]⟩)] := by
  decide +kernel

theorem test_backtrack :
    ((after (.backtrack 8 7) (player { playingAt 45200 with stack := [29612] })).ctx 8).map
      (fun x => (x.cursor, x.stack, x.readAhead)) = some (29612, [], []) ∧
    (after (.backtrack 8 7) (player (stoppedAt 29612))).out =
      [(8, .reply 7 ⟨0x28, .refused .noSuch none, []⟩)] := by decide +kernel

theorem test_stop_keeps_the_read_ahead :
    ((after (.stop 8 7) (player (playingAt 44902))).ctx 8).map
      (fun x => (x.cursor, x.mode, x.readAhead.length)) = some (44902, .stopped, 1) := by decide +kernel

theorem test_seek_cue_backward_finds_none :
    (after (.seekCue 8 7 2 9) (player (stoppedAt 29612))).out =
      [(8, .reply 7 ⟨0x25, .refused .noSuch none, []⟩)] := by decide +kernel

theorem test_seek_cue_forward :
    (after (.seekCue 8 7 1 1) (player (stoppedAt 29612))).out =
      [(8, .reply 7 ⟨0x25, .ok, [.cueIndex (some 2), .time 31200, .unlisted (.mode .stopped)]⟩)] := by
  decide +kernel

theorem test_step_back_stops_at_the_bound :
    ((after (.stepBack 8 7 301) (player (stoppedAt 29612))).ctx 8).map (·.cursor) = some 29370 := by
  decide +kernel

theorem test_step_ahead :
    ((after (.stepAhead 8 7 301) (player (stoppedAt 29612))).ctx 8).map (·.cursor) = some 29912 := by
  decide +kernel

theorem test_seek_past_the_end :
    (after (.seek 8 7 60000) (player (stoppedAt 29612))).out =
      [(8, .reply 7 ⟨0x24, .clamped, [.time 59100, .unlisted (.mode .stopped)]⟩)] := by decide +kernel

theorem test_jump_cue :
    ((after (.jumpCue 8 7 5) (player (stoppedAt 29612))).ctx 8).map (fun x => (x.cursor, x.stack)) =
      some (59100, [29612]) := by decide +kernel

theorem test_speech_goes_out :
    (after (.playFrameDue 8) (player (playingAt 44902))).out.head? =
      some (8, .playSpeech 14 44902 sound) := by decide +kernel

theorem test_restricted_speech_is_silenced :
    (after (.playFrameDue 8) (player (playingAt 45000))).out =
      [(8, .notice (.restrictedSilenced 14 45000 2)), (8, .playSilence 14 45000)] := by decide +kernel

/-- Take 22 of 8.5, paused at 84,300 and held in part by a typist. -/
def take22 : Take :=
  { takeOf 22 .paused (some 3) 84300 with
    cursor := 84000, readers := 1
    cues := [cueOf 305 80000 .restrictBegin (some 2) 0, cueOf 310 81540 .speaker (some 4) 1,
             cueOf 306 82000 .restrictEnd (some 305) 2] }

/-- Port 3 reading back. -/
def reading : State :=
  ((withTake { take22 with state := .readback, readers := 2 }).setLink 3 (linkOf .reader 2041 0)).setCtx 3
    (some (ctxOf 22 .reader 0 84300 81400))

theorem test_readback_begin :
    (after (.readbackBegin 3 7 2 3001) (withTake take22)).out =
      [(3, .reply 7 ⟨0x19, .clamped, [.takeId 22, .time 81298, .time 84300, .cueIndex (some 0)]⟩)] ∧
    ((after (.readbackBegin 3 7 2 3001) (withTake take22)).take? 22).map (fun t => (t.state, t.readers)) =
      some (.readback, 2) := by decide +kernel

theorem test_readback_end :
    let s := after (.readbackEnd 3 7) reading
    (s.take? 22).map (fun t => (t.state, t.readers, t.cues.getLast?.map (·.kind))) =
      some (.paused, 1, some .readbackEnd) ∧ (s.link 3).role = some .recorder ∧ s.ctx 3 = none := by
  decide +kernel

theorem test_readback_discards_audio :
    (after (.audioSilence 3 10) reading).out = [(3, .notice (.audioDiscarded (some 22)))] := by
  decide +kernel

theorem test_readback_refuses_mark :
    (after (.mark 3 7 1 4) reading).out = [(3, .reply 7 ⟨0x14, .refused .wrongState none, []⟩)] := by
  decide +kernel

/-! ### Pools, holds and the log (5.9, 6.9) -/

/-- The four chunks of 5.9. -/
def waitingB : List Chunk :=
  [chunkOf 21 3 0 100 (some .b) .pending 300 40100 2, chunkOf 17 9 0 100 (some .b) .pending 301 40350 0,
   chunkOf 21 4 0 100 (some .b) .pending 305 40350 0,
   { chunkOf 22 1 0 100 (some .b) .pending 310 41000 0 with noOffer := true, lastDecliner := some 8 }]

/-- Pool B of 5.9 before the three READYs. -/
def quarterHour : State :=
  { office with
    clock := 40000, chunks := waitingB
    pools := { office.pools with b := { Pool.reset with discipline := .urgency, reoffer := false } } }

/-- The pairs of chunk and offeree. -/
def offers (s : State) : List (Nat × Nat × Option PortNo) :=
  s.chunks.map (fun c => (c.name.take, c.name.ordinal, c.offeree))

theorem test_ready_of_port_8 :
    offers (after (.ready 8 7 2) quarterHour) = [(21, 3, none), (17, 9, some 8), (21, 4, none), (22, 1, none)] ∧
    (after (.ready 8 7 2) quarterHour).pools.b.ready = [] := by decide +kernel

theorem test_three_readys :
    offers (after (.ready 12 7 2) (after (.ready 5 7 2) (after (.ready 8 7 2) quarterHour))) =
      [(21, 3, some 5), (17, 9, some 8), (21, 4, some 12), (22, 1, none)] := by decide +kernel

/-- The office after the three READYs. -/
def offered : State :=
  { quarterHour with
    chunks := [{ chunkOf 21 3 0 100 (some .b) .offered 300 40100 2 with offeree := some 5 },
               { chunkOf 17 9 0 100 (some .b) .offered 301 40350 0 with offeree := some 8 },
               { chunkOf 21 4 0 100 (some .b) .offered 305 40350 0 with offeree := some 12 }] }
  |>.setHandoff 5 { offer := some { chunk := ⟨21, 3⟩, timeout := 30 }, lapsed := none, reservation := none }
  |>.setHandoff 8 { offer := some { chunk := ⟨17, 9⟩, timeout := 30 }, lapsed := none, reservation := none }
  |>.setHandoff 12 { offer := some { chunk := ⟨21, 4⟩, timeout := 30 }, lapsed := none, reservation := none }

theorem test_decline :
    let s := after (.decline 8 7 17 9) offered
    (s.chunk? ⟨17, 9⟩).map (fun c => (c.state, c.lastDecliner, c.noOffer)) =
      some (.pending, some 8, true) ∧ (s.handoff 8).offer = none := by decide +kernel

theorem test_accept :
    let s := after (.accept 5 7 21 3) offered
    (s.chunk? ⟨21, 3⟩).map (fun c => (c.state, c.holderStation, c.holderPort, c.heldSince)) =
      some (.held, some 4402, some 5, some 40000) := by decide +kernel

theorem test_offer_times_out :
    let s := after (.offerTimerExpiry 12) offered
    s.out = [(12, .notice (.offerLapsed ⟨21, 4⟩))] ∧
    (after (.accept 12 7 21 4) s).out.getLast? =
      some (12, .reply 7 ⟨0x34, .refused .expired none, []⟩) := by decide +kernel

theorem test_unready :
    (after (.unready 8 7) (after (.ready 8 7 1) quarterHour)).pools.a.ready = [] ∧
    (after (.ready 8 7 1) quarterHour).pools.a.ready = [8] := by decide +kernel

theorem test_enter_setup_with_chunks_in_work :
    (after (.enterSetup 0 7) offered).out =
      [(0, .reply 7 ⟨0x50, .refused .takeBusy (some .chunksInWork), []⟩)] := by decide +kernel

/-- Pool A of 6.9: take 3 with three chunks, stations 5,120 and 6,033 on ports 6 and 9. -/
def morning : State :=
  let s := withTake { takeOf 3 .closed none 60000 with cursor := 60000, chunksMade := 3, nextOrdinal := 4 }
  let s := { s with
    clock := 32420
    chunks := [chunkOf 3 1 0 20000 (some .a) .pending 40 50000 0,
               chunkOf 3 2 20000 40000 (some .a) .pending 41 50000 2,
               chunkOf 3 3 40000 60000 (some .a) .pending 42 50000 0] }
  (s.setLink 6 (linkOf .typist 5120 1)).setLink 9 (linkOf .typist 6033 2)

/-- The same with 3/1 HELD by station 6,033 on port 9 at cursor 12,460. -/
def held31 (st : ChunkState) (port : Option PortNo) : State :=
  { morning with
    takes := [(0, { takeOf 3 .closed none 60000 with
      cursor := 60000, chunksMade := 3, nextOrdinal := 4, readers := if port.isSome then 1 else 0 })]
    chunks := [{ chunkOf 3 1 0 20000 (some .a) st 40 50000 0 with
                 holderStation := some 6033, holderPort := port, heldSince := some 32410
                 savedCursor := if port.isSome then none else some 12460
                 graceTimer := if port.isSome then none else some 600 },
               chunkOf 3 2 20000 40000 (some .a) .pending 41 50000 2] }

/-- With its context. -/
def typing : State := (held31 .held (some 9)).setCtx 9 (some (ctxOf 3 .typist 0 20000 12460))

theorem test_peek_passes_over_the_required_chunk :
    ((after (.peek 6 7 1) { morning with chunks := morning.chunks.drop 1 }).handoff 6).reservation =
      some ⟨3, 3⟩ := by decide +kernel

theorem test_claim_clears_every_reservation :
    let s := after (.claim 9 7) (after (.peek 9 7 1) (after (.peek 6 7 1) morning))
    (s.handoff 6).reservation = none ∧ (s.handoff 9).reservation = none ∧
    (after (.claim 6 7) s).out.getLast? = some (6, .reply 7 ⟨0x33, .refused .lost none, []⟩) := by
  decide +kernel

theorem test_recall_of_a_pending_chunk :
    let s := after (.recall 0 7 3 3) morning
    (s.chunk? ⟨3, 3⟩).map (fun c => (c.state, c.pool)) = some (.parked, none) ∧
    s.log = [{ kind := .recalled, chunk := ⟨3, 3⟩, station := none, clock := 32420, heldSince := none
               pages := 0, tooLate := false }] := by decide +kernel

theorem test_recall_of_a_held_chunk :
    (after (.recall 0 7 3 1) typing).out =
      [(9, .notice (.recallRequested ⟨3, 1⟩)), (0, .reply 7 ⟨0x45, .ok, []⟩)] := by decide +kernel

theorem test_repool :
    (after (.repool 0 7 3 3 1) (after (.recall 0 7 3 3) morning)).chunks.map (fun c => (c.state, c.pool)) =
      [(.pending, some .a), (.pending, some .a), (.pending, some .a)] := by decide +kernel

theorem test_resume_hold :
    let s := after (.resumeHold 9 7) (held31 .lapsing none)
    (s.ctx 9).map (·.cursor) = some 12460 ∧
    (s.chunk? ⟨3, 1⟩).map (fun c => (c.state, c.heldSince, c.graceTimer)) =
      some (.held, some 32410, none) := by decide +kernel

theorem test_finish_too_late :
    let s := after (.finish 9 7 14) { typing with
      clock := 34900, chunks := typing.chunks.map (fun c => { c with recallPending := c.name.ordinal = 1 }) }
    s.log = [{ kind := .finished, chunk := ⟨3, 1⟩, station := some 6033, clock := 34900
               heldSince := some 32410, pages := 14, tooLate := true }] ∧
    s.chunks.length = 1 ∧ (s.take? 3).map (fun t => (t.chunksFinished, t.readers)) = some (1, 0) := by
  decide +kernel

theorem test_yield :
    (after (.yield 9 7) typing).chunks.map (fun c => (c.state, c.holderStation)) =
      [(.pending, none), (.pending, none)] := by decide +kernel

theorem test_grace_runs_out :
    let s := after (.graceTimerExpiry 3 1) (held31 .lapsing none)
    (s.chunk? ⟨3, 1⟩).map (fun c => (c.state, c.reissues)) = some (.pending, 1) ∧
    s.log.map (fun r => (r.kind, r.station, r.heldSince)) = [(.lapsed, some 6033, some 32410)] := by
  decide +kernel

theorem test_fetch_log_ten :
    let r : LogRec := { kind := .recalled, chunk := ⟨3, 3⟩, station := none, clock := 32420
                        heldSince := none, pages := 0, tooLate := false }
    (after (.fetchLog 0 7 10) { office with log := [r] }).out = [(0, .reply 7 ⟨0x47, .clamped,
      [.count 8, .logRec r, .unlisted (.logLeft 0), .unlisted (.answer false)]⟩)] := by decide +kernel

/-! ### The store (3.10, 7.6) -/

/-- A write request. -/
def writeOf (p : PortNo) (block : Nat) : WriteReq :=
  { port := p, buf := false, block := block, start := 0, duration := 990, bytesUsed := 4060 }

/-- The store port of 3.10: a stale read of port 6 in tenure, and the requests that wait. -/
def busy : State :=
  { office with arbiter :=
    { tenure := some (.read { port := 6, kind := .typist, take := 4, time := 0 } none 0 0 0 .nothing true)
      writes := [writeOf 3 5000, writeOf 9 812]
      reads := [{ port := 2, kind := .reader, take := 4, time := 61200 },
                { port := 4, kind := .typist, take := 9, time := 118000 },
                { port := 11, kind := .typist, take := 1, time := 30000 },
                { port := 14, kind := .exporting, take := 2, time := 0 }]
      releases := [12, 12], lastWrite := 5, lastReader := 15, lastTypist := 6, lastExport := 15 } }

theorem test_first_grant :
    (after (.readTenureComplete [] true) busy).arbiter.tenure = some (.write (writeOf 9 812)) ∧
    (after (.readTenureComplete [] true) busy).arbiter.lastWrite = 9 := by decide +kernel

theorem test_later_grants :
    let s := { busy with arbiter := { busy.arbiter with writes := [] } }
    let t := after (.readTenureComplete [] true) s
    t.arbiter.lastReader = 2 ∧
    (State.grant { t with arbiter := { t.arbiter with tenure := none } }).arbiter.lastTypist = 11 := by
  decide +kernel

theorem test_write_completes :
    let s := after .writeTenureComplete
      ((({ short with arbiter := { Arbiter.reset with tenure := some (.write (writeOf 3 5000)) } } : State)))
    (s.intake 3).buf0 = .empty ∧ s.arbiter.tenure = none ∧
    (Table.find s.directory 5000).map (·.state) = some .stored := by decide +kernel

/-- Take 12 in RELEASING with blocks 300 and 301 left, and 1,087 blocks on the free list. -/
def releasing (n : Nat) (chain : List (Nat × Nat)) : State :=
  { withTake { takeOf 12 .releasing none 400 with chain := chain } with
    free := { fresh := 131072 - n, returned := [] }, lowFlag := true
    arbiter := { Arbiter.reset with tenure := some (.release 12), releases := chain.tail.map (fun _ => 12) } }

theorem test_first_release_step :
    let s := after .releaseStepComplete (releasing 1087 [(300, 0), (301, 200)])
    s.lowFlag = true ∧ s.free.count = 1088 ∧ s.free.returned = [300] ∧
    s.arbiter.tenure = some (.release 12) ∧ s.out = [] := by decide +kernel

theorem test_last_release_step :
    let s := after .releaseStepComplete (releasing 1088 [(301, 200)])
    s.lowFlag = false ∧ s.takes = [] ∧ s.arbiter.tenure = none ∧
    s.out = [(0, .notice (.storeRecovered 1089)), (1, .notice (.storeRecovered 1089)),
             (3, .notice (.storeRecovered 1089)), (0, .notice (.released 12)),
             (1, .notice (.released 12))] := by decide +kernel

/-- Take 1 of 7.6 in the export of port 0, the read of block 9,044 in tenure. -/
def exporting : State :=
  let s := withTake { takeOf 1 .closed none 40000 with
    cursor := 40000, readers := 1, chain := [(9044, 12308)] }
  let s := { s with
    directory := [(9044, { state := .stored, owner := 1, port := none, start := 12308
                           duration := some 194, bytesUsed := some 2
                           check := some (crc [0x00#8, 0x61#8]) })]
    store := [(9044, { recs := [.silence 97], bytes := [0x00#8, 0x61#8] })]
    arbiter := { Arbiter.reset with tenure := some (.read
      { port := 0, kind := .exporting, take := 1, time := 12308 } (some 9044) 12308 12502 12308 .stored
      false) } }
  s.setCtx 0 (some { ctxOf 1 .exporting 0 40000 12308 with
    mode := .playing, outstanding := true, closedAtBegin := true })

theorem test_mismatch_damages_the_block :
    let s := after (.readTenureComplete [{ offset := 1, byte := 0x62 }] true) exporting
    (Table.find s.directory 9044).map (·.state) = some .damaged ∧
    (s.take? 1).map (·.damagedSeen) = some 1 ∧
    s.out = [(0, .notice (.damagedBlock 1 12308 12502)), (1, .notice (.damagedBlock 1 12308 12502)),
             (0, .exportSilence 1 12308 97)] := by decide +kernel

/-- Records in the buffer of a port reach the export that reads them: a silence of 97 frame-times (R52, R127). -/
theorem test_buffered_read_is_delivered :
    let s := after (.readTenureComplete [] true) { exporting with arbiter := { exporting.arbiter with
      tenure := some (.read { port := 0, kind := .exporting, take := 1, time := 12308 } (some 9044) 12308 12502
        12308 (.buffered [.silence 97]) false) } }
    (s.ctx 0).map (fun x => (x.cursor, x.damagedCount)) = some (12502, 0) ∧
    s.out = [(0, .exportSilence 1 12308 97)] := by decide +kernel

/-- A stored block whose bytes stand as they were written, one of them written over with the same value, reads as
its records (R52). -/
theorem test_matching_read_reads_as_written :
    let d : Stored := { recs := [.silence 97], bytes := recsBytes [.silence 97] }
    let same : Upset := { offset := 0, byte := (recsBytes [.silence 97]).headD 0 }
    (d.upset [same]).content = [.silence 97] := by
  have h : ∀ (d : Stored) (r : List Rec), d = { recs := r, bytes := recsBytes r } → d.content = r := by
    intro d r e; subst e; exact Stored.content_written r
  exact h _ _ rfl

theorem test_export_begin :
    let s := after (.exportBegin 0 7 1) (withTake { takeOf 1 .closed none 40000 with cursor := 40000 })
    (s.ctx 0).map (fun x => (x.endBound, x.closedAtBegin, x.outstanding)) = some (40000, true, true) ∧
    (s.take? 1).map (·.readers) = some 1 := by decide +kernel

theorem test_export_stop :
    let s := after (.exportStop 0 7) exporting
    s.ctx 0 = none ∧ (s.take? 1).map (fun t => (t.readers, t.exported)) = some (0, false) := by
  decide +kernel

theorem test_release_before_export :
    (after (.releaseTake 0 7 1) (withTake { takeOf 1 .closed none 40000 with
      cursor := 40000, chunksMade := 2, chunksFinished := 2 })).out =
      [(0, .reply 7 ⟨0x42, .refused .takeBusy (some .notExported), []⟩)] := by decide +kernel

theorem test_release_without_blocks :
    (after (.releaseTake 0 7 1) (withTake { takeOf 1 .closed none 0 with exported := true })).takes = [] := by
  decide +kernel

/-! ### Office control and settings (Chapter 10) -/

theorem test_set_clock : (after (.setClock 0 7 99) office).clock = 99 := by decide +kernel

theorem test_tick_stops_at_the_top :
    (after .officeClockTick { office with clock := 4294967295 }).clock = 4294967295 ∧
    (after .officeClockTick office).clock = 37816 := by decide +kernel

theorem test_set_clearance_reaches_the_link :
    let s := after (.setClearance 0 7 7310 4) office
    s.clearances = [(7310, 3)] ∧ (s.link 8).clearance = 3 := by decide +kernel

theorem test_get_clearance :
    (after (.getClearance 0 7 7310) { office with clearances := [(7310, 1)] }).out =
      [(0, .reply 7 ⟨0x4A, .ok, [.level 1]⟩)] := by decide +kernel

theorem test_status :
    (after (.status 0 7) restricted).out = [(0, .reply 7 ⟨0x4B, .ok,
      [.status .run 37815 131072 1 1 4089 1 0 1 0 false false]⟩)] := by decide +kernel

theorem test_list_takes :
    ((after (.listTakes 0 7 4294967295) restricted).out.map (fun e =>
      match e.2 with | .reply _ r => r.items.length | _ => 0)) = [2] := by decide +kernel

theorem test_list_cues :
    ((after (.listCues 0 7 1 4294967295) restricted).out.map (fun e =>
      match e.2 with | .reply _ r => r.items.take 4 | _ => [])) =
      [(take1Restricted.cues.take 4).map (Item.cue 1)] := by decide +kernel

theorem test_list_chunks :
    (after (.listChunks 0 7 2 1 4294967295) morning).out.length = 1 := by decide +kernel

/-- The PARKED form of LIST_CHUNKS has no selector: a value other than 0 in its place is refused (R167, log 20). -/
theorem test_list_chunks_parked_selector :
    (after (.listChunks 0 7 3 1 0) morning).out = [(0, .reply 7 ⟨0x4E, .refused .noSuch none, []⟩)] := by
  decide +kernel

theorem test_get_links :
    ((after (.getLinks 0 7) office).out.map (fun e =>
      match e.2 with | .reply _ r => r.items.length | _ => 0)) = [81] := by decide +kernel

theorem test_enter_setup_with_a_take_open :
    (after (.enterSetup 0 7) restricted).out =
      [(0, .reply 7 ⟨0x50, .refused .takeBusy (some .takesOpen), []⟩)] := by decide +kernel

theorem test_leave_setup_reprices :
    (after (.leaveSetup 0 7) { morning with opState := .setup }).chunks.map (fun c => (c.estimate, c.key)) =
      [(800, 50200), (800, 50200), (800, 50200)] := by decide +kernel

theorem test_setting_in_run_is_refused :
    (after (.setGrace 0 7 600) office).out = [(0, .reply 7 ⟨0x59, .refused .notSetup none, []⟩)] := by
  decide +kernel

theorem test_settings_clamp :
    (after (.setPauseThreshold 0 7 39) setup).pauseThreshold = 40 ∧
    (after (.setWatermark 0 7 65536) setup).watermark = 65535 ∧
    (after (.setOfferTimeout 0 7 256) setup).offerTimeout = 255 ∧
    (after (.setGrace 0 7 59) setup).grace = 60 ∧ (after (.setDropTime 0 7 601) setup).dropTime = 600 ∧
    (after (.setDefaultAction 0 7 5 599 1 4) setup).defaultAction =
      { target := none, turnaround := 600, whole := true, floor := 3 } := by decide +kernel

theorem test_set_pool_split :
    (after (.setPoolSplit 0 7 3 6001 5000 3000 65) setup).pools.c =
      { Pool.reset with length := 6000, window := 3000, leadIn := 1500, ratio := 64 } := by decide +kernel

theorem test_set_pool_mode :
    (after (.setPoolMode 0 7 2 2 0) setup).pools.b =
      { Pool.reset with discipline := .urgency, reoffer := false } ∧
    (after (.setPoolMode 0 7 5 2 0) setup).out =
      [(0, .reply 7 ⟨0x57, .refused .noSuch none, []⟩)] := by decide +kernel

theorem test_get_settings :
    (after (.getFilter 0 7 32) office).out = [(0, .reply 7 ⟨0x5B, .refused .noSuch none, []⟩)] ∧
    (after (.getHandoff 0 7) office).out = [(0, .reply 7 ⟨0x5E, .ok, [.count 600, .count 30]⟩)] ∧
    ((after (.getIntake 0 7) office).out.map (fun e =>
      match e.2 with | .reply _ r => r.items.getLast? | _ => none)) = [some (.count 150)] ∧
    ((after (.getPool 0 7 1) morning).out.map (fun e =>
      match e.2 with | .reply _ r => r.items.drop 7 | _ => [])) =
      [[.unlisted (.queueLength 3), .unlisted (.queuePending 3), .unlisted (.readyLength 0)]] := by
  decide +kernel

/-! ### A state for each obligation's hypotheses -/

theorem witness_StepTakesFrontCommand :
    ({ office with pending := [.officeClockTick, .idle 3] } : State).pending = .officeClockTick :: [.idle 3] ∧
    State.reset.pending = [] := by decide +kernel

theorem witness_HeldPartTakesNothing :
    ({ office with resetHeld := true } : State).resetHeld = true ∧ Instr.officeClockTick ≠ .powerOnReset ∧
    Instr.officeClockTick ≠ .hardReset ∧ Instr.officeClockTick ≠ .resetPinAsserted := by decide

/-- The part after reset with a tick waiting. -/
def ticking : State := { State.reset with pending := [.officeClockTick] }

theorem witness_StepKeepsTheStateWellKept :
    ticking.wellKept ∧ ∃ t, step ticking = .next t ∧ t.clock = 1 := by
  have links : ∀ p, ticking.link p = Link.reset := by decide +kernel
  refine ⟨⟨⟨by decide, by decide, by decide, by decide⟩, ?_, ?_, ⟨?_, ?_, ?_⟩, by decide⟩, _, rfl, rfl⟩
  · have none : ∀ p, ticking.ctx p = none := by decide +kernel
    exact ⟨by decide, by decide, by decide, by decide, by decide, by decide, by decide, by decide,
      fun p c h => by rw [none p] at h; cases h⟩
  · have actions : ∀ i : Fin 32, ticking.filter[i].action = Action.reset := by decide +kernel
    have a : Action.reset.inRange := by unfold Action.inRange; decide
    exact ⟨fun i h => (actions ⟨i, h⟩ : ticking.filter[i].action = Action.reset) ▸ a, a, by decide, by decide,
      fun k => by unfold Pool.inRange; cases k <;> decide, by decide, by decide, by decide⟩
  · intro p
    rw [links p]
    constructor <;> decide
  · intro p q h; rw [links p] at h; cases h
  · intro p n h; rw [links p] at h; cases h

theorem witness_StepKeepsTheLawOfBlocks :
    ticking.blocksKept ∧ ∃ t, step ticking = .next t :=
  ⟨⟨by decide, by decide, by decide, by decide, by decide⟩, _, rfl⟩

theorem witness_SpeechReachesOnlyClearedPorts :
    exec (.playFrameDue 8) (player (playingAt 44902)) =
      .next (after (.playFrameDue 8) (player (playingAt 44902))) ∧
    (after (.playFrameDue 8) (player (playingAt 44902))).out.head? = some (8, .playSpeech 14 44902 sound) ∧
    (Frame.playSpeech 14 44902 sound).speech? = some (14, 44902) := by
  refine ⟨?_, by decide +kernel, rfl⟩
  unfold after
  simp only [exec, execPlayFrameDue, State.running]

theorem witness_OperandBytesReadBack :
    (Instr.restrictSpan 0 7 65535 16777215 0 255).wellFormed = true ∧
    Machine.Instr.portOf (.restrictSpan 0 7 65535 16777215 0 255) = some 0 ∧
    commandBytes (.restrictSpan 0 7 65535 16777215 0 255) = some (7, 0x41,
      [0xFF#8, 0xFF#8, 0xFF#8, 0xFF#8, 0xFF#8, 0x00#8, 0x00#8, 0x00#8, 0xFF#8]) := by decide

theorem witness_FrameCrossesTheLine :
    (0x7E < 256 ∧ (List.replicate 255 0x7D#8).length < 256) ∧
    ∀ f ∈ [(0x00, 0x00#8, []), (0xFF, 0x7E#8, List.replicate 255 0x7E#8)],
      f.1 < 256 ∧ f.2.2.length < 256 := by decide +kernel

theorem witness_GoodFrameRecord :
    (counted 97 false).resetHeld = false ∧ ((counted 97 false).link 8).takesFrames = true := by decide +kernel

/-- Take 1 RECORDING at E = 33,700 with its restricted span open. -/
def recorded : Take := { take1Paused with state := .recording }

/-- `typing` with a recall pending or not. -/
def recalled (b : Bool) : State :=
  { typing with chunks := typing.chunks.map (fun c => { c with recallPending := b }) }

/-- The port carries what a loss ends: a take that is not read back, a readback, or a hold. -/
def carries (s : State) (p : PortNo) : Bool :=
  (s.link p).isAttached && decide s.takeIds.Nodup &&
    match (s.link p).role, s.linkTake p, s.heldBy p, s.ctx p with
    | some .recorder, some t, _, _ => t.state ≠ .readback
    | some .reader, some t, _, some x => x.take = t.id
    | some .typist, _, some c, some x => s.chunk? c.name = some c && (s.take? x.take).isSome &&
        (s.handoff p).offer.map (·.chunk) ≠ some c.name
    | _, _, _, _ => false

/-- One state for each case of a loss: a RECORDING take, a PAUSED one, a readback, and a hold without and with a
recall pending. -/
def losing : List (State × PortNo) :=
  [(withTake recorded, 3), (withTake take1Paused, 3), (reading, 3), (recalled false, 9), (recalled true, 9)]

/-- The states of `losing`, the record of the port changed. -/
def losingAs (f : Link → Link) : List (State × PortNo) :=
  losing.map (fun e => (e.1.setLink e.2 (f (e.1.link e.2)), e.2))

theorem witness_BadFrameRecord_loss :
    ∀ e ∈ losingAs (fun l => { l with errorCount := 247, warning := true }), carries e.1 e.2 = true ∧
      e.1.resetHeld = false ∧ (e.1.link e.2).takesFrames = true ∧
      min 255 ((e.1.link e.2).errorCount + 8) = 255 := by decide +kernel

theorem witness_CarrierAndBreakRecords_loss :
    ∀ e ∈ losing, carries e.1 e.2 = true ∧ e.1.resetHeld = false ∧ (e.1.link e.2).state ≠ .down := by
  decide +kernel

theorem witness_DetachAndMaskOnAttachedPort_loss :
    ∀ e ∈ losing, carries e.1 e.2 = true ∧ e.1.resetHeld = false := by decide +kernel

theorem witness_LinkTimersRunOut_loss :
    ∀ e ∈ losingAs (fun l => { l with state := .quiet, quietTimer := false, dropTimer := some 60 }),
      carries e.1 e.2 = true ∧ e.1.resetHeld = false ∧ (e.1.link e.2).state = .quiet ∧
      (e.1.link e.2).dropTimer.isSome = true := by decide +kernel

theorem witness_LinkTimersRunOut_quiet :
    ∀ e ∈ [(reading, (3 : PortNo)), (recalled false, 9),
        ((recalled true).setCtx 9 (some { ctxOf 3 .typist 0 20000 12460 with mode := .playing }), 9)],
      carries e.1 e.2 = true ∧ e.1.resetHeld = false ∧ (e.1.link e.2).state = .attached ∧
      (e.1.link e.2).quietTimer = true ∧ (e.1.chunks.map (·.name)).Nodup := by decide +kernel

theorem witness_BadFrameRecord :
    (counted 246 true).resetHeld = false ∧ ((counted 246 true).link 8).takesFrames = true ∧
    min 255 (246 + 8) < 255 ∧ ((counted 247 true).link 8).takesFrames = true ∧ min 255 (247 + 8) = 255 := by
  decide +kernel

theorem witness_CarrierAndBreakRecords :
    office.resetHeld = false ∧ (office.link 9).state = .down ∧ (office.link 9).faultLatch = false ∧
    (office.link 0).state ≠ .down ∧ (office.link 0).isAttached = true ∧
    (office.link 0).role = some .desk ∧ (office.link 2).state ≠ .down ∧
    (office.link 2).isAttached = false := by decide +kernel

theorem witness_IgnoredAndUnknownFrames :
    office.resetHeld = false ∧ (office.link 2).takesFrames = true ∧
    ((after (.badFrame 8) (counted 252 true)).link 8).state = .faulted ∧
    (after (.badFrame 8) (counted 252 true)).resetHeld = false := by decide +kernel

theorem witness_AttachTakesThePort :
    office.resetHeld = false ∧ (office.link 2).state = .listening ∧ announcedRole 2 = some .typist ∧
    262143 < 2 ^ 18 ∧
    (∀ q, q ≠ (2 : PortNo) → (office.link q).isAttached = true → (office.link q).station ≠ some 65535) ∧
    (∀ q, q ≠ (2 : PortNo) → (office.link q).isAttached = true → (office.link q).station ≠ some 1) := by
  decide +kernel

theorem witness_DetachAndMaskOnAttachedPort :
    office.resetHeld = false ∧ (office.link 0).isAttached = true ∧ (office.link 0).role = some .desk ∧
    262143 < 2 ^ 18 ∧ 2 ^ 18 ≤ 262144 := by decide +kernel

theorem witness_LinkTimersRunOut :
    office.resetHeld = false ∧ (office.link 8).state = .attached ∧ (office.link 8).quietTimer = true ∧
    (office.link 2).takesFrames = true ∧ (office.link 2).sendTimer = true ∧
    ((after (.quietTimerExpiry 8) office).link 8).state = .quiet ∧
    ((after (.quietTimerExpiry 8) office).link 8).dropTimer.isSome = true := by decide +kernel

theorem witness_RecorderQuietAndLoss :
    (withTake recorded).hears 3 .recorder ∧ ((withTake recorded).link 3).state = .attached ∧
    ((withTake recorded).link 3).quietTimer = true ∧ (withTake recorded).linkTake 3 = some recorded ∧
    recorded.state = .recording ∧ (withTake recorded).takeIds.Nodup := by
  unfold State.hears; decide +kernel

/-- The office with all 64 take records in use. -/
def crowded : State :=
  { office with takes := (List.range 64).map (fun n => (n, takeOf (n + 1) .closed none 0)) }

theorem witness_OpenTakeAllocatesRecord :
    setup.hears 3 .recorder ∧ setup.opState = .setup ∧
    (withTake take1).hears 3 .recorder ∧ (withTake take1).opState = .run ∧
    ((withTake take1).linkTake 3).isSome = true ∧
    crowded.hears 3 .recorder ∧ crowded.opState = .run ∧ crowded.linkTake 3 = none ∧
    crowded.freeSlot = none ∧
    office.hears 3 .recorder ∧ office.opState = .run ∧ office.linkTake 3 = none ∧
    office.freeSlot = some 0 := by unfold State.hears; decide +kernel

theorem witness_TakeIdIsFirstUnused :
    let s := { withTake (takeOf 65535 .closed none 0) with takeIdCounter := 65535 }
    1 ≤ s.takeIdCounter ∧ s.takeIdCounter ≤ 65535 ∧ s.takes.length ≤ 63 ∧ s.nextTakeId = 1 := by
  decide +kernel

/-- Take 1 orphaned with an open block in port 9's buffer. -/
def orphaned : State :=
  (withTake { take1Paused with recPort := none, chain := [(7, 33000)] }).setIntake 9
    { buf0 := .assembling 7 1 33000 [.silence 100], buf1 := .empty, run := none, gap := none
      starving := false, discard := false }

theorem witness_ContinueReadoptsTheOrphan :
    let t := { take1Paused with recPort := none, chain := [(7, 33000)] }
    orphaned.hears 3 .recorder ∧ orphaned.opState = .run ∧ orphaned.linkTake 3 = none ∧
    orphaned.take? 1 = some t ∧ t.isOrphaned = true ∧ (orphaned.link 3).station = some t.station ∧
    orphaned.openPort 1 = some 9 ∧ orphaned.openBuf 9 1 = some false ∧
    (withTake t).openPort 1 = none := by unfold State.hears; decide +kernel

theorem witness_FilterElementMatches :
    let e := elemOf true .range 4294967295 0 inA
    e.first < 2 ^ 32 ∧ e.second < 2 ^ 32 ∧ 4294967295 < 2 ^ 32 ∧ e.kind = .range ∧ e.second < e.first ∧
    (elemOf true .mask 5 0 inA).kind = .mask ∧ (elemOf true .mask 5 0 inA).second = 0 ∧
    (elemOf true .pair 5 5 inA).kind = .pair ∧
    (elemOf true .pair 5 5 inA).first = (elemOf true .pair 5 5 inA).second := by decide

theorem witness_PauseAndResumeTheTake :
    (withTake recorded).hears 3 .recorder ∧ (withTake recorded).linkTake 3 = some recorded ∧
    (withTake recorded).takeIds.Nodup ∧ recorded.state = .recording ∧
    (withTake take1Paused).hears 3 .recorder ∧
    (withTake take1Paused).linkTake 3 = some take1Paused ∧ (withTake take1Paused).takeIds.Nodup ∧
    take1Paused.state = .paused := by unfold State.hears; decide +kernel

theorem witness_CloseTakeClosesTheTake :
    ((withTake recorded).takeIds.Nodup ∧ (withTake recorded).take? 1 = some recorded ∧
      (withTake recorded).hears 3 .recorder ∧ (withTake recorded).linkTake 3 = some recorded ∧
      recorded.state ≠ .readback) ∧
    let t := { take1Paused with recPort := none, chain := [(7, 33000)] }
    orphaned.takeIds.Nodup ∧ orphaned.take? 1 = some t ∧ orphaned.hears 0 .desk ∧
      t.isOrphaned = true ∧ orphaned.openPort 1 = some 9 ∧ orphaned.openBuf 9 1 = some false ∧
      (orphaned.intake 9).buf false = .assembling 7 1 33000 [.silence 100] := by
  unfold State.hears; decide +kernel

/-- Take 1 RECORDING with so many cues that `n` pool entries are free. -/
def full (n : Nat) : State :=
  withTake { takeOf 1 .recording (some 3) 8192 with
    cues := (List.range (4096 - n)).map (fun i => cueOf i (2 * i) .note (some i) i) }

theorem witness_MarkPlacesTheCue :
    let s := full 65
    let u := full 64
    s.hears 3 .recorder ∧ (s.linkTake 3).map (·.state) = some .recording ∧ s.takeIds.Nodup ∧
    markKind 1 = some .speaker ∧ 64 < s.cueFree ∧
    u.hears 3 .recorder ∧ (u.linkTake 3).map (·.state) = some .recording ∧ u.takeIds.Nodup ∧
    u.cueFree ≤ 64 := by unfold State.hears; decide +kernel

theorem witness_SpanBeginsOpenTheSpan :
    let s := withTake take1
    s.hears 3 .recorder ∧ s.linkTake 3 = some take1 ∧ take1.state = .recording ∧ s.takeIds.Nodup ∧
    64 < s.cueFree ∧ take1.offRecordOpen = false ∧ take1.restrictOpen = none := by
  unfold State.hears; decide +kernel

theorem witness_SpanEndsCloseTheSpan :
    let t := { take1Paused with offRecordOpen := true }
    let s := withTake t
    s.hears 3 .recorder ∧ s.linkTake 3 = some t ∧ t.state = .paused ∧ s.takeIds.Nodup ∧ 1 ≤ s.cueFree ∧
    t.offRecordOpen = true ∧ t.restrictOpen = some 3 := by unfold State.hears; decide +kernel

theorem witness_CueListKeepsItsOrder :
    take1Paused.cues.Pairwise (fun x y => x.time < y.time ∨ (x.time = y.time ∧ x.arrival ≤ y.arrival)) ∧
    ∀ e ∈ take1Paused.cues, e.arrival ≤ (cueOf 5 29000 .restrictBegin (some 3) 5).arrival := by decide

theorem witness_ReadbackBeginsOnThePausedTake :
    let s := withTake take22
    s.hears 3 .recorder ∧ (s.link 3).state = .attached ∧ s.linkTake 3 = some take22 ∧
    take22.state = .paused ∧ s.takeIds.Nodup ∧ take22.endTime % 2 = 0 ∧ targetForm 2 = some .back ∧
    take22.target .back 3001 = some (81299, false) ∧
    take22.target .back 84301 = some (0, true) ∧ targetForm 3 = some .cue ∧
    take22.target .cue 310 = some (81540, false) := by unfold State.hears; decide +kernel

theorem witness_ReadbackEndsInPause :
    let t := { take22 with state := .readback, readers := 2 }
    reading.hears 3 .reader ∧ reading.linkTake 3 = some t ∧ t.state = .readback ∧
    reading.takeIds.Nodup ∧ reading.ctx 3 = some (ctxOf 22 .reader 0 84300 81400) ∧
    (ctxOf 22 .reader 0 84300 81400).take = t.id := by unfold State.hears; decide +kernel

theorem witness_SilenceCountsAreClamped : 250 < 251 := by decide

/-- Take 9 of 2.10 with these buffers and as many free blocks as `returned` lists. -/
def staged (buf0 buf1 : Buffer) (returned : List Nat) : State :=
  { short with free := { fresh := 131072, returned := returned } }.setIntake 3
    { short.intake 3 with buf0 := buf0, buf1 := buf1 }

theorem witness_AudioIsStoredOrLost :
    let full := ((short.intake 3).buf false).recs
    let openWith : List Rec → Buffer := fun recs => .assembling 5000 9 119010 recs
    let written : Buffer := .writing 4999 9 118020 []
    let other : Buffer := .assembling 4000 8 0 [.silence 1]
    AudioFrame 3 (.audioSpeech 3 sound) (.speech sound) ∧
    (∀ s ∈ [staged (openWith [.silence 250]) written [], staged (openWith full) .empty [77],
        staged (openWith full) written [77], staged (openWith full) .empty [],
        staged written .empty [77], staged written other [77], staged written .empty []],
      s.hears 3 .recorder ∧ (s.linkTake 3).map (fun t => (t.id, t.state, t.endTime)) =
        some (9, .recording, 120000) ∧ s.takeIds.Nodup) ∧
    (let s := staged (openWith [.silence 250]) written []
     s.openBuf 3 9 = some false ∧ (s.intake 3).buf false = openWith [.silence 250] ∧
      appendRec [.silence 250] (.speech sound) = some [.silence 250, .speech sound]) ∧
    appendRec full (.speech sound) = none ∧
    (∀ returned ∈ [[77], []], ∀ b ∈ [Buffer.empty, written],
      let s := staged (openWith full) b returned
      s.openBuf 3 9 = some false ∧ (s.intake 3).buf false = openWith full ∧ (s.intake 3).buf true = b ∧
      s.free.pop.isSome = !returned.isEmpty) ∧
    (∀ returned ∈ [[77], []], let s := staged written .empty returned
      s.openBuf 3 9 = none ∧ s.emptyBuf 3 = some true ∧ s.free.pop.isSome = !returned.isEmpty) ∧
    ((staged written other [77]).openBuf 3 9 = none ∧ (staged written other [77]).emptyBuf 3 = none) ∧
    16777212 + (Rec.speech sound).duration ≤ 16777214 :=
  ⟨.speech sound, by unfold State.hears; decide +kernel⟩

theorem witness_AudioIsDiscardedOnce :
    AudioFrame 3 (.audioSilence 3 10) (.silence (min 10 250)) ∧ reading.hears 3 .reader ∧
    (∀ t, reading.linkTake 3 = some t → t.state ≠ .recording) ∧ (reading.intake 3).discard = false ∧
    office.hears 3 .recorder ∧ office.linkTake 3 = none := by
  refine ⟨.silence 10 (by decide), ⟨by decide +kernel, by decide +kernel, by decide +kernel⟩, ?_,
    by decide +kernel, ⟨by decide +kernel, by decide +kernel, by decide +kernel⟩, by decide +kernel⟩
  intro t h
  have : reading.linkTake 3 = some { take22 with state := .readback, readers := 2 } := by decide +kernel
  rw [this] at h; cases h; decide

theorem witness_TakeLimitClosesTheTake :
    let t := takeOf 1 .recording (some 3) 16777214
    AudioFrame 3 (.audioSpeech 3 sound) (.speech sound) ∧ (withTake t).hears 3 .recorder ∧
    (withTake t).linkTake 3 = some t ∧ t.state = .recording ∧ (withTake t).takeIds.Nodup ∧
    16777214 < t.endTime + (Rec.speech sound).duration ∧ 4 ≤ (withTake t).cueFree :=
  ⟨.speech sound, by unfold State.hears; decide +kernel⟩

theorem witness_TimeMovesReachTheirTarget : (player (stoppedAt 29612)).plays 8 (stoppedAt 29612) :=
  ⟨.inl ⟨by decide +kernel, by decide +kernel, by decide +kernel⟩, by decide +kernel⟩

theorem witness_CueMovesReachTheirCue :
    let x := { stoppedAt 29612 with stack := [40000] }
    let cues := (player x).cuesOf 14
    (player x).plays 8 x ∧ directionOf 1 = some .next ∧ 32767 < 2 ^ 15 ∧
    (x.seekCue cues .next 1).map (·.time) = some 31200 ∧ x.seekCue cues .next 2 = none ∧
    (cues.find? (fun e => e.index = 5)).map (·.time) = some 59100 ∧ (∀ e ∈ cues, e.index ≠ 99) ∧
    x.stack = 40000 :: [] ∧ (stoppedAt 29612).stack = [] :=
  ⟨⟨.inl ⟨by decide +kernel, by decide +kernel, by decide +kernel⟩, by decide +kernel⟩,
    by decide +kernel⟩

theorem witness_PlayStartsAndStopStops :
    (player (stoppedAt 29612)).plays 8 (stoppedAt 29612) ∧ (stoppedAt 29612).mode = .stopped ∧
    (stoppedAt 29612).cursor < (stoppedAt 29612).endBound ∧ (stoppedAt 29612).covering = none ∧
    ({ playingAt 44902 with mode := .stopped } : Ctx).covering.isSome = true ∧
    (stoppedAt 59100).endBound ≤ (stoppedAt 59100).cursor ∧ (playingAt 44902).mode ≠ .stopped :=
  ⟨⟨.inl ⟨by decide +kernel, by decide +kernel, by decide +kernel⟩, by decide +kernel⟩,
    by decide +kernel⟩

theorem witness_DueFrameIsSentOrStalls :
    let s := player (playingAt 44902)
    s.resetHeld = false ∧ (s.link 8).takesFrames = true ∧ s.ctx 8 = some (playingAt 44902) ∧
    (playingAt 44902).kind ≠ .exporting ∧ (playingAt 44902).mode = .playing ∧
    (playingAt 44902).pacing = .due ∧ (playingAt 44902).covering.isSome = true ∧
    (playingAt 45044).covering = none := by decide +kernel

theorem witness_ReadyJoinsAndUnreadyLeaves :
    office.hears 8 .typist ∧ poolOf 4 = some .d ∧ office.opState = .run ∧ office.isHolding 8 = false ∧
    (office.handoff 8).offer = none ∧ (∀ c ∈ office.queue .d, c.state ≠ .pending) := by
  unfold State.hears; decide +kernel

theorem witness_PeekReservesTheFirstCleared :
    let s := { morning with chunks := morning.chunks.drop 1 }
    s.hears 6 .typist ∧ s.opState = .run ∧ poolOf 1 = some .a ∧
    s.queue .a = [chunkOf 3 2 20000 40000 (some .a) .pending 41 50000 2] ++
      chunkOf 3 3 40000 60000 (some .a) .pending 42 50000 0 :: [] ∧
    (s.link 6).clearance < 2 ∧
    (∀ e ∈ office.queue .a, e.state = .pending → (office.link 6).clearance < e.required) := by
  unfold State.hears; decide +kernel

/-- Pool A of 6.9 after the two PEEKs. -/
def peeked : State :=
  morning.setHandoff 9 { offer := none, lapsed := none, reservation := some ⟨3, 1⟩ }

theorem witness_AcceptAndClaimMakeTheHold :
    (offered.hears 5 .typist ∧
      (offered.chunk? ⟨21, 3⟩).map (fun c => (c.playStart, c.ownEnd)) = some (0, 100) ∧
      (offered.handoff 5).offer.map (·.chunk) = some ⟨21, 3⟩) ∧
    peeked.hears 9 .typist ∧ (peeked.chunk? ⟨3, 1⟩).isSome = true ∧ peeked.opState = .run ∧
    peeked.isHolding 9 = false ∧ (peeked.handoff 9).reservation = some ⟨3, 1⟩ :=
  by unfold State.hears; decide +kernel

theorem witness_DeclineAndTimeoutEndTheOffer :
    offered.hears 8 .typist ∧ (offered.handoff 8).offer = some { chunk := ⟨17, 9⟩, timeout := 30 } ∧
    (offered.chunk? ⟨17, 9⟩).map (·.pool) = some (some .b) ∧
    (∀ j, (8 : PortNo) ∉ (offered.pool j).ready) :=
  ⟨⟨by decide +kernel, by decide +kernel, by decide +kernel⟩, by decide +kernel, by decide +kernel,
    fun j => by cases j <;> decide +kernel⟩

theorem witness_FinishAndYieldEndTheHold :
    ∀ b : Bool, (recalled b).hears 9 .typist ∧
      (recalled b).heldBy 9 = (recalled b).chunk? ⟨3, 1⟩ ∧
      ((recalled b).heldBy 9).map (fun c => (c.name, c.offeree, c.recallPending)) = some (⟨3, 1⟩, none, b) ∧
      ((recalled b).ctx 9).map (·.take) = some 3 ∧ ((recalled b).take? 3).isSome = true ∧
      (recalled b).deferral = [] := by unfold State.hears; decide +kernel

theorem witness_LapsedHoldReturnsOrEnds :
    let s := held31 .lapsing none
    s.hears 9 .typist ∧ s.heldBy 9 = none ∧ s.lapsedHoldOf 9 = s.chunk? ⟨3, 1⟩ ∧
    (s.chunk? ⟨3, 1⟩).map (fun c => (c.state, c.offeree, c.savedCursor, c.graceTimer)) =
      some (.lapsing, none, some 12460, some 600) ∧
    12460 % 2 = 0 ∧ 12460 ≤ 20000 := by unfold State.hears; decide +kernel

theorem witness_RestrictSpanRaisesWhatItMeets :
    restricted.hears 0 .desk ∧ restricted.take? 1 = some take1Restricted ∧
    take1Restricted.state ≠ .releasing ∧ 65 < restricted.cueFree ∧
    min (29001 / 2 * 2) take1Restricted.endTime < min (30500 / 2 * 2) take1Restricted.endTime := by
  unfold State.hears; decide +kernel

/-- Take 12, CLOSED and exported, with two blocks. -/
def exported : Take := { takeOf 12 .closed none 400 with chain := [(300, 0), (301, 200)], exported := true }

theorem witness_ReleaseRunsBlockByBlock :
    ((withTake exported).hears 0 .desk ∧ (withTake exported).take? 12 = some exported ∧
      exported.state = .closed ∧ exported.exported = true ∧
      exported.chunksMade = exported.chunksFinished ∧ exported.deferred = false ∧ exported.readers = 0 ∧
      exported.chain ≠ []) ∧
    ((withTake { exported with chain := [] }).take? 12).map (·.chain) = some [] ∧
    ({ exported with exported := false } : Take).releaseUnmet = some .notExported ∧
    let s := releasing 1087 [(300, 0), (301, 200)]
    s.resetHeld = false ∧ s.arbiter.tenure = some (.release 12) ∧
      (s.take? 12).map (·.chain) = some ((300, 0) :: [(301, 200)]) ∧ s.directory.wf ∧ s.store.wf := by
  unfold State.hears; decide +kernel

theorem witness_ExportBeginsAndStops :
    ((withTake exported).hears 0 .desk ∧ (withTake exported).take? 12 = some exported ∧
      (withTake exported).ctx 0 = none ∧ exported.state ≠ .releasing ∧ 0 < exported.endTime) ∧
    ((withTake { exported with endTime := 0 }).take? 12).map (·.endTime) = some 0 ∧
    exporting.hears 0 .desk ∧ (exporting.take? 1).isSome = true ∧ (exporting.ctx 0).map (·.take) = some 1 := by
  unfold State.hears; decide +kernel

theorem witness_RecallAndRepoolMoveTheChunk :
    let s := offered
    let parked := after (.recall 0 7 3 3) morning
    s.hears 0 .desk ∧ poolOf 1 = some .a ∧ poolOf 2 = some .b ∧
    (s.chunk? ⟨17, 9⟩).map (fun c => (c.state, c.pool, c.offeree)) =
      some (.offered, some .b, some 8) ∧
    (s.handoff 8).offer.map (·.chunk) = some ⟨17, 9⟩ ∧
    morning.hears 0 .desk ∧ (morning.chunk? ⟨3, 1⟩).map (·.state) = some .pending ∧
    typing.hears 0 .desk ∧ (typing.chunk? ⟨3, 1⟩).map (·.state) = some .held ∧
    ((held31 .lapsing none).chunk? ⟨3, 1⟩).map (·.state) = some .lapsing ∧
    parked.hears 0 .desk ∧ (parked.chunk? ⟨3, 3⟩).map (fun c => (c.state, c.offeree)) =
      some (.parked, none) := by unfold State.hears; decide +kernel

theorem witness_FetchedRecordsLeaveTheLog : office.hears 0 .desk := by unfold State.hears; decide +kernel

theorem witness_OfficeClockIsSetAndTicks : office.hears 0 .desk ∧ office.resetHeld = false := by
  unfold State.hears; decide +kernel

/-- The office with all 32 clearance entries in use. -/
def listed : State := { office with clearances := (List.range 32).map (fun n => (n + 1, 1)) }

theorem witness_ClearanceTableIsKept :
    listed.hears 0 .desk ∧ listed.clearances.wf ∧
    (Table.find listed.clearances 1).isSome = true ∧ min 3 255 ≠ 0 ∧
    Table.find listed.clearances 65535 = none ∧ 32 ≤ listed.clearances.length ∧
    (office.link 8).isAttached = true ∧ (office.link 8).station = some 7310 ∧
    (∀ r, (office.link r).isAttached = true → (office.link r).station = some 7310 → r = 8) ∧
    office.clearances.length < 32 := by unfold State.hears; decide +kernel

theorem witness_QueriesAnswerFromTheState :
    restricted.hears 0 .desk ∧ restricted.take? 1 = some take1Restricted ∧ poolOf 1 = some .a := by
  unfold State.hears; decide +kernel

theorem witness_SetupIsEnteredAndLeft :
    (morning.hears 0 .desk ∧ morning.opState = .run ∧ (∀ e ∈ morning.takes, e.2.isOpen = false) ∧
      (∀ c ∈ morning.chunks, c.state = .parked ∨ c.state = .pending)) ∧
    let s := { morning with opState := .setup }
    s.hears 0 .desk ∧ s.opState = .setup ∧ (s.chunks.map (·.name)).Nodup := by
  unfold State.hears; decide +kernel

theorem witness_SettingWritesTakeEffect :
    setup.hears 0 .desk ∧ setup.opState = .setup ∧ targetOf 5 = some none ∧ yesNo 1 = some true ∧
    filterKindOf 3 = some .pair ∧ poolOf 4 = some .d ∧ disciplineOf 2 = some .urgency ∧ 31 < 32 := by
  unfold State.hears; decide +kernel

theorem witness_WriteCompletionStoresTheBlock :
    let s := { short with arbiter := { Arbiter.reset with tenure := some (.write (writeOf 3 5000)) } }
    s.resetHeld = false ∧ s.arbiter.tenure = some (.write (writeOf 3 5000)) ∧
    (Table.find s.directory (writeOf 3 5000).block).isSome = true ∧ s.arbiter.writes = [] ∧
    s.arbiter.reads = [] ∧ s.arbiter.releases = [] := by decide +kernel

/-- Port 8 waiting for its next frame with a read of block 6,290 in tenure. -/
def waiting (source : Source) (stale : Bool) : State :=
  let s := player { playingAt 44902 with outstanding := true }
  { s with
    directory := [(6290, { state := .stored, owner := 14, port := none, start := 44850
                           duration := some 194, bytesUsed := some 2
                           check := some (crc [0x00#8, 0x61#8]) })]
    store := [(6290, { recs := [.silence 97], bytes := [0x00#8, 0x61#8] })]
    arbiter := { Arbiter.reset with tenure := some (.read
      { port := 8, kind := .typist, take := 14, time := 44902 } (some 6290) 44850 45044 44850 source stale) } }

/-- A playback that resumes from a stall inside a restricted passage is told of it again (R123, R124): port 8, of
clearance 1, stalled at 45,002 in a passage of level 2 that it had entered before. -/
theorem test_resumed_passage_is_told_again :
    let x := { stoppedAt 45002 with mode := .stalled, stretch := true, outstanding := true }
    (after (.readTenureComplete [] false) ((waiting (.buffered [.silence 97]) false).setCtx 8 (some x))).out =
      [(8, .notice (.restrictedSilenced 14 45002 2)), (8, .playSilence 14 45002)] := by decide +kernel

theorem witness_ReadCompletionDeliversTheResult :
    let s := waiting .stored false
    let x := { playingAt 44902 with outstanding := true }
    s.resetHeld = false ∧ s.ctx 8 = some x ∧ x.kind ≠ .exporting ∧ x.mode = .playing ∧ x.pacing = .due ∧
    (Table.find s.store 6290).isSome = true ∧
    (Table.find s.directory 6290).map (·.check) = some (some (crc [0x00#8, 0x61#8])) ∧
    ((Table.find s.store 6290).map (fun d => (d.upset []).bytes)) = some [0x00#8, 0x61#8] ∧
    ((Table.find s.store 6290).map (fun d => crc (d.upset [{ offset := 1, byte := 0x62 }]).bytes)) ≠
      some (crc [0x00#8, 0x61#8]) ∧
    (waiting .damaged false).ctx 8 = some x ∧ (waiting (.buffered [.silence 97]) false).ctx 8 = some x ∧
    (waiting (.buffered [.silence 97]) true).resetHeld = false := by decide +kernel

/-- The context of `exportingTo`. -/
def exportCtx (bound : Nat) : Ctx :=
  { ctxOf 1 .exporting 0 bound 12308 with mode := .playing, outstanding := true, closedAtBegin := true }

/-- `exporting` with its read of [12,308, 12,502) served from `source` and its end bound at `bound`. -/
def exportingTo (source : Source) (bound : Nat) : State :=
  { exporting with arbiter := { Arbiter.reset with tenure := some (.read
      { port := 0, kind := .exporting, take := 1, time := 12308 } (some 9044) 12308 12502 12308 source
      false) } }.setCtx 0 (some (exportCtx bound))

theorem witness_ReadCompletionDeliversTheResult_export :
    (∀ source ∈ [Source.buffered [.silence 97], .nothing, .stored, .damaged], ∀ bound ∈ [40000, 12502],
      let s := exportingTo source bound
      let x := exportCtx bound
      s.resetHeld = false ∧ s.arbiter.tenure = some (.read
        { port := 0, kind := .exporting, take := 1, time := 12308 } (some 9044) 12308 12502 12308 source
        false) ∧
      s.ctx 0 = some x ∧ x.kind = .exporting ∧ x.mode = .playing ∧ x.readAhead = [] ∧
      (s.link 0).isAttached = true ∧ (s.take? x.take).isSome = true ∧ 12308 ≤ x.cursor ∧ x.cursor < 12502 ∧
      x.cursor < x.endBound ∧ x.cursor % 2 = 0 ∧ 12502 % 2 = 0 ∧ x.endBound % 2 = 0 ∧ 12308 % 2 = 0) ∧
    let s := exportingTo .stored 40000
    let bytes : List Upset → List Byte := fun u =>
      ((Table.find s.store 9044).map (fun d => (d.upset u).bytes)).getD []
    (Table.find s.store 9044).isSome = true ∧
    (Table.find s.directory 9044).map (·.check) = some (some (crc (bytes []))) ∧
    crc (bytes []) ≠ crc (bytes [{ offset := 1, byte := 0x62 }]) ∧ (s.port 0).lastDamage ≠ some 9044 := by
  decide +kernel

theorem witness_GrantServesTheLowestClass :
    let s := { busy with arbiter := { busy.arbiter with tenure := none } }
    s.arbiter.tenure = none ∧ s.arbiter.writes ≠ [] ∧ s.arbiter.readsOf .reader ≠ [] ∧
    s.arbiter.readsOf .typist ≠ [] ∧ s.arbiter.readsOf .exporting ≠ [] ∧
    s.arbiter.releases = 12 :: [12] := by decide +kernel

theorem witness_PricingOfChunks :
    ∀ target ∈ [some PoolId.a, none], let t := { take14 66000 0 1 0 with action := { inA with target := target } }
      (withTake t).take? t.id = some t ∧ (withTake t).chunk? ⟨14, 1⟩ = none ∧
      t.action.target = target := by decide +kernel

/-- Take 14 with its cut state and action set, in an office with these chunks and this deferral list. -/
def cutting (stop cursor : Nat) (state : TakeState) (deferred whole : Bool) (chunks : List Chunk)
    (deferral : List Nat) : State :=
  { withTake { take14 stop cursor 3 (if cursor = 0 then 0 else 2) with
      state := state, deferred := deferred, action := { inA with whole := whole } } with
    chunks := chunks, deferral := deferral }

/-- What the cut test asks of take 14: whether a rolling cut is due, a final split is pending, a chunk can be made
outside the service, and the tail is short. -/
def cutFacts (s : State) : Option (Bool × Bool × Bool × Bool) :=
  (s.take? 14).map (fun t =>
    (!t.action.whole && t.cursor + s.pools.a.length + s.pools.a.window ≤ t.endTime,
      t.state = .closed && t.cursor < t.endTime,
      s.chunks.length < 512 && s.arrivalSeq < 4294967295 && s.deferral.isEmpty,
      !t.action.whole && t.endTime - t.cursor < s.pools.a.length / 4 && t.chunksMade ≠ 0))

theorem witness_CutPointIsTheNearestBreak_test :
    cutFacts (cutting 31500 0 .recording false false [] []) = some (true, false, true, false) ∧
    cutFacts (cutting 31500 0 .recording false false [] [9]) = some (true, false, false, false) ∧
    cutFacts (cutting 31500 0 .recording true false (List.replicate 512 (chunk2 .held)) [14]) =
      some (true, false, false, false) ∧
    cutFacts (cutting 31498 0 .recording false false [] []) = some (false, false, true, false) ∧
    cutFacts (cutting 66000 0 .closed false true [] []) = some (false, true, true, false) ∧
    cutFacts (cutting 66600 59100 .closed false false [] [9]) = some (false, true, false, false) ∧
    cutFacts (cutting 66598 59100 .closed false false [chunk2 .held] []) = some (false, true, true, true) ∧
    cutFacts (cutting 66598 59100 .closed false false [chunk2 .pending] []) = some (false, true, true, true) ∧
    (∀ st, (cutting 66598 59100 .closed false false [chunk2 st] []).chunk? ⟨14, 2⟩ = some (chunk2 st)) ∧
    ((cutting 31500 0 .releasing false false [] []).take? 14).map (·.state) = some .releasing := by
  refine ⟨by decide +kernel, by decide +kernel, by decide +kernel, by decide +kernel, by decide +kernel,
    by decide +kernel, by decide +kernel, by decide +kernel, fun _ => rfl, by decide +kernel⟩

theorem witness_CutPointIsTheNearestBreak_service :
    cutFacts ((cutting 31500 0 .recording true false [] [14]).cutTest 14 true) =
      some (false, false, false, true) ∧
    cutFacts ((cutting 31500 0 .recording true false (List.replicate 512 (chunk2 .held)) [14]).cutTest 14 true) =
      some (true, false, false, false) := by decide +kernel

theorem witness_CutPointIsTheNearestBreak :
    (∃ c ∈ (take14 66000 0 1 0).cues, c.time = 29870 ∧ c.kind.isBreak = true ∧ 30000 ≤ c.time + 1500 ∧
      c.time ≤ 30000 + 1500) ∧
    ∀ c ∈ (take14 66000 0 1 0).cues, ¬ (c.kind.isBreak = true ∧ 90000 ≤ c.time + 1500 ∧
      c.time ≤ 90000 + 1500) := by decide

end Sys2Proof.Tests
end

/-!
PROOFS. The test of a matter filter element, kind by kind, and what an AUDIO_SILENCE
depends on (Chapter 2).
-/

namespace Sys2Proof.Machine

/-! ### The matter filter -/

/-- Equality of 32-bit values is equality of their 32 bits. -/
theorem eq_iff_testBit_of_lt_word {a b : Nat} (ha : a < 2 ^ 32) (hb : b < 2 ^ 32) :
    a = b ↔ ∀ i < 32, a.testBit i = b.testBit i := by
  refine ⟨fun h i _ => by rw [h], fun h => Nat.eq_of_testBit_eq fun i => ?_⟩
  rcases Nat.lt_or_ge i 32 with low | high
  · exact h i low
  · have word_le : 2 ^ 32 ≤ 2 ^ i := Nat.pow_le_pow_right (by decide) high
    rw [Nat.testBit_lt_two_pow (ha.trans_le word_le), Nat.testBit_lt_two_pow (hb.trans_le word_le)]

theorem FilterElem.matches_range {e : FilterElem} (h : e.kind = .range) (code : Nat) :
    e.matches code = true ↔ e.enabled = true ∧ e.first ≤ code ∧ code ≤ e.second := by
  simp [FilterElem.matches, h]

theorem FilterElem.matches_mask {e : FilterElem} (h : e.kind = .mask) (code : Nat) :
    e.matches code = true ↔ e.enabled = true ∧ code &&& e.second = e.first &&& e.second := by
  simp [FilterElem.matches, h]

theorem FilterElem.matches_pair {e : FilterElem} (h : e.kind = .pair) (code : Nat) :
    e.matches code = true ↔ e.enabled = true ∧ (code = e.first ∨ code = e.second) := by
  simp [FilterElem.matches, h]

/-- A MASK element's test taken bit by bit, as R26 words it. -/
theorem FilterElem.matches_mask_testBit {e : FilterElem} (h : e.kind = .mask) (code : Nat)
    (second_lt : e.second < 2 ^ 32) :
    e.matches code = true ↔ e.enabled = true ∧ ∀ i < 32,
      (code.testBit i && e.second.testBit i) = (e.first.testBit i && e.second.testBit i) := by
  rw [e.matches_mask h, eq_iff_testBit_of_lt_word (Nat.and_lt_two_pow _ second_lt)
    (Nat.and_lt_two_pow _ second_lt)]
  simp only [Nat.testBit_and]

/-- Settles O21: the test of each kind, and from it the RANGE that is empty, the MASK of no bits and the PAIR of one
code. -/
theorem filterElementMatches : Obligations.FilterElementMatches := by
  intro e code _ second_lt _
  refine ⟨?_, ?_, ?_, ?_⟩
  · cases kind : e.kind with
    | range => exact e.matches_range kind code
    | mask => exact e.matches_mask_testBit kind code second_lt
    | pair => exact e.matches_pair kind code
  · intro kind empty
    rw [Bool.eq_false_iff, Ne, e.matches_range kind]
    rintro ⟨-, first_le, le_second⟩
    omega
  · intro kind no_bits enabled
    rw [e.matches_mask kind, no_bits, Nat.and_zero, Nat.and_zero]
    exact ⟨enabled, rfl⟩
  · intro kind same enabled
    rw [e.matches_pair kind, ← same, or_self]
    exact and_iff_right enabled

/-! ### Silence counts -/

/-- An AUDIO_SILENCE depends on its count only through whether it is 0 and what the clamp of R31 makes of it. -/
theorem exec_audioSilence_congr (p : PortNo) {m n : Nat} (zero : m = 0 ↔ n = 0)
    (clamped : min m 250 = min n 250) (s : State) :
    exec (.audioSilence p m) s = exec (.audioSilence p n) s := by
  show execAudioSilence p m s = execAudioSilence p n s
  simp only [execAudioSilence, clamped, Ne, zero]

/-- An AUDIO_SILENCE of count 0 hands nothing to the Intake Unit (R31), so a good frame is all it is. -/
theorem exec_audioSilence_zero (p : PortNo) (s : State) :
    exec (.audioSilence p 0) s = exec (.idle p) s := by
  show execAudioSilence p 0 s = execIdle p s
  simp [execAudioSilence, execIdle]

/-- Settles O30: counts above 250 agree in what the frame depends on. -/
theorem silenceCountsAreClamped : Obligations.SilenceCountsAreClamped :=
  ⟨fun p n s above => exec_audioSilence_congr p (by omega) (by omega) s, exec_audioSilence_zero⟩

end Sys2Proof.Machine

/-!
PROOFS. The tenure arbiter's grant (3.4): the port a class is served at, what each class's grant makes of the
arbiter, and which class is served.
-/

namespace Sys2Proof.Machine

/-! ### The port a class is served at -/

/-- The port is the first of the waiting ones after `last` in ascending order, passing from 15 to 0 (R48). -/
def IsNextPort (last : PortNo) (waiting : List PortNo) (p : PortNo) : Prop :=
  p ∈ waiting ∧ ∀ q ∈ waiting, (p - last - 1).val ≤ (q - last - 1).val

/-- The walk of `portsAfter` meets the ports by their distance after `last`. -/
theorem portsAfter_pairwise (last : PortNo) :
    (portsAfter last).Pairwise (fun p q => (p - last - 1).val ≤ (q - last - 1).val) := by
  have distance (k : PortNo) : last + 1 + k - last - 1 = k := by abel
  have ascending : allPorts.Pairwise (fun j k => j.val ≤ k.val) := by decide
  simpa only [portsAfter, List.pairwise_map, distance] using ascending

theorem mem_portsAfter (last p : PortNo) : p ∈ portsAfter last := by
  have every (k : PortNo) : k ∈ allPorts := by revert k; decide
  exact List.mem_map.2 ⟨p - last - 1, every _, by abel⟩

theorem isNextPort_of_nextPort {last p : PortNo} {waiting : List PortNo}
    (chosen : nextPort last waiting = some p) : IsNextPort last waiting p := by
  obtain ⟨waits, passed, behind, walk, none_passed⟩ := List.find?_eq_some_iff_append.1 chosen
  refine ⟨by simpa using waits, fun q q_waits => ?_⟩
  have met : q ∈ passed ++ p :: behind := walk ▸ mem_portsAfter last q
  have order := List.pairwise_append.1 (walk ▸ portsAfter_pairwise last)
  rcases List.mem_append.1 met with before | rest
  · simpa [q_waits] using none_passed q before
  · rcases List.mem_cons.1 rest with rfl | after
    · exact le_rfl
    · exact List.rel_of_pairwise_cons order.2.1 after

theorem nextPort_isSome {last q : PortNo} {waiting : List PortNo} (waits : q ∈ waiting) :
    (nextPort last waiting).isSome = true :=
  List.find?_isSome.2 ⟨q, mem_portsAfter last q, by simpa using waits⟩

@[simp] theorem nextPort_nil (last : PortNo) : nextPort last [] = none := by simp [nextPort]

/-- Among waiting requests the arbiter finds a port to serve and that port's oldest request (R48). -/
theorem exists_served_request {α : Type} (port : α → PortNo) (last : PortNo) {requests : List α}
    (waiting : requests ≠ []) : ∃ r ∈ requests, IsNextPort last (requests.map port) (port r) ∧
      nextPort last (requests.map port) = some (port r) ∧
      requests.find? (fun x => port x = port r) = some r := by
  obtain ⟨x, x_waits⟩ := List.exists_mem_of_ne_nil requests waiting
  obtain ⟨p, chosen⟩ := Option.isSome_iff_exists.1
    (nextPort_isSome (last := last) (List.mem_map_of_mem (f := port) x_waits))
  have next := isNextPort_of_nextPort chosen
  obtain ⟨y, y_waits, y_port⟩ := List.mem_map.1 next.1
  obtain ⟨r, oldest⟩ := Option.isSome_iff_exists.1
    (List.find?_isSome (p := fun x => decide (port x = p)).2 ⟨y, y_waits, by simpa using y_port⟩)
  obtain rfl : port r = p := by simpa using List.find?_some oldest
  exact ⟨r, List.mem_of_find?_eq_some oldest, next, chosen, oldest⟩

/-! ### The grant within a class -/

theorem Arbiter.readsOf_of_reads_nil {a : Arbiter} (none_waits : a.reads = []) (k : CtxKind) :
    a.readsOf k = [] := by simp [Arbiter.readsOf, none_waits]

theorem State.grantWrite_of_nil {s : State} (none_waits : s.arbiter.writes = []) : s.grantWrite = none := by
  simp [State.grantWrite, none_waits]

theorem State.grantWrite_of_ne_nil {s : State} (waiting : s.arbiter.writes ≠ []) :
    ∃ r, IsNextPort s.arbiter.lastWrite (s.arbiter.writes.map (·.port)) r.port ∧
      s.arbiter.writes.find? (fun w => w.port = r.port) = some r ∧
      s.grantWrite = some { s with arbiter := { s.arbiter with
        writes := s.arbiter.writes.erase r, tenure := some (.write r), lastWrite := r.port } } := by
  obtain ⟨r, -, next, chosen, oldest⟩ :=
    exists_served_request (·.port) s.arbiter.lastWrite waiting
  exact ⟨r, next, oldest, by simp only [State.grantWrite, chosen, oldest]⟩

theorem State.grantClass_of_nil {s : State} {k : CtxKind} (none_waits : s.arbiter.readsOf k = [])
    (last : PortNo) (mark : Arbiter → PortNo → Arbiter) : s.grantClass k last mark = none := by
  simp [State.grantClass, none_waits]

theorem State.grantClass_of_ne_nil {s : State} {k : CtxKind} (waiting : s.arbiter.readsOf k ≠ [])
    (last : PortNo) (mark : Arbiter → PortNo → Arbiter) :
    ∃ r ∈ s.arbiter.readsOf k, IsNextPort last ((s.arbiter.readsOf k).map (·.port)) r.port ∧
      s.grantClass k last mark =
        some { s.grantRead r with arbiter := mark (s.grantRead r).arbiter r.port } := by
  obtain ⟨r, waits, next, chosen, oldest⟩ := exists_served_request (·.port) last waiting
  exact ⟨r, waits, next, by simp only [State.grantClass, chosen, oldest]⟩

/-! ### The class served -/

section
variable {s t : State}

/-- With the store port idle, the classes are asked in their order (R48 step 1). -/
theorem State.grant_of_idle (idle : s.arbiter.tenure = none) :
    s.grant = (s.grantWrite <|>
      s.grantClass .reader s.arbiter.lastReader Arbiter.markReader <|>
      s.grantClass .typist s.arbiter.lastTypist Arbiter.markTypist <|>
      s.grantClass .exporting s.arbiter.lastExport Arbiter.markExport <|>
      s.grantRelease).getD s := by
  simp [State.grant, idle]

theorem State.grant_of_grantWrite (idle : s.arbiter.tenure = none) (write : s.grantWrite = some t) :
    s.grant = t := by
  simp [State.grant_of_idle idle, write]

theorem State.grant_of_grantReader (idle : s.arbiter.tenure = none) (no_write : s.arbiter.writes = [])
    (read : s.grantClass .reader s.arbiter.lastReader Arbiter.markReader = some t) : s.grant = t := by
  simp [State.grant_of_idle idle, State.grantWrite_of_nil no_write, read]

theorem State.grant_of_grantTypist (idle : s.arbiter.tenure = none) (no_write : s.arbiter.writes = [])
    (no_reader : s.arbiter.readsOf .reader = [])
    (read : s.grantClass .typist s.arbiter.lastTypist Arbiter.markTypist = some t) : s.grant = t := by
  simp [State.grant_of_idle idle, State.grantWrite_of_nil no_write, State.grantClass_of_nil no_reader, read]

theorem State.grant_of_grantExport (idle : s.arbiter.tenure = none) (no_write : s.arbiter.writes = [])
    (no_reader : s.arbiter.readsOf .reader = []) (no_typist : s.arbiter.readsOf .typist = [])
    (read : s.grantClass .exporting s.arbiter.lastExport Arbiter.markExport = some t) : s.grant = t := by
  simp [State.grant_of_idle idle, State.grantWrite_of_nil no_write, State.grantClass_of_nil no_reader,
    State.grantClass_of_nil no_typist, read]

/-- With no write and no read waiting, the grant is left to class 5. -/
theorem State.grant_of_no_read (idle : s.arbiter.tenure = none) (no_write : s.arbiter.writes = [])
    (no_read : s.arbiter.reads = []) : s.grant = s.grantRelease.getD s := by
  have no_class (k : CtxKind) := s.grantClass_of_nil (Arbiter.readsOf_of_reads_nil no_read k)
  simp [State.grant_of_idle idle, State.grantWrite_of_nil no_write, no_class]

end

/-- Each reset leaves the arbiter as R58 states. -/
theorem arbiter_of_reset {s t : State} (reset : exec .powerOnReset s = .next t ∨ exec .hardReset s = .next t) :
    t.arbiter = .reset := by
  rcases reset with power_on | hard
  · cases power_on; rfl
  · cases hard; rfl

/-- Settles O58, class by class: the port each class is served at comes from the grant within the class, and the
classes above it, empty, answer nothing. -/
theorem grantServesTheLowestClass : Obligations.GrantServesTheLowestClass := by
  refine ⟨fun s t reset => ?_, fun s idle => ⟨?write, ?reader, ?typist, ?exporting, ?release, ?nothing⟩⟩
  · simp [arbiter_of_reset reset, Arbiter.reset]
  case write =>
    intro waiting
    obtain ⟨r, next, oldest, granted⟩ := State.grantWrite_of_ne_nil waiting
    rw [State.grant_of_grantWrite idle granted]
    exact ⟨next, rfl, rfl, r, oldest, rfl, rfl⟩
  case reader =>
    intro no_write waiting
    obtain ⟨r, waits, next, granted⟩ := State.grantClass_of_ne_nil waiting s.arbiter.lastReader Arbiter.markReader
    rw [State.grant_of_grantReader idle no_write granted]
    exact ⟨next, rfl, rfl, r, waits, rfl, rfl, rfl⟩
  case typist =>
    intro no_write no_reader waiting
    obtain ⟨r, waits, next, granted⟩ := State.grantClass_of_ne_nil waiting s.arbiter.lastTypist Arbiter.markTypist
    rw [State.grant_of_grantTypist idle no_write no_reader granted]
    exact ⟨next, rfl, rfl, r, waits, rfl, rfl, rfl⟩
  case exporting =>
    intro no_write no_reader no_typist waiting
    obtain ⟨r, waits, next, granted⟩ := State.grantClass_of_ne_nil waiting s.arbiter.lastExport Arbiter.markExport
    rw [State.grant_of_grantExport idle no_write no_reader no_typist granted]
    exact ⟨next, rfl, rfl, r, waits, rfl, rfl, rfl⟩
  case release =>
    intro no_write no_read take rest steps
    rw [State.grant_of_no_read idle no_write no_read]
    simp [State.grantRelease, steps]
  case nothing =>
    intro no_write no_read no_release
    rw [State.grant_of_no_read idle no_write no_read]
    simp [State.grantRelease, no_release]

end Sys2Proof.Machine

/-!
PROOFS. What each command may touch (chapters 1 to 10): a frame of a station first has the effect of its good frame,
and then what its owner does touches only the parts listed here.
-/

namespace Sys2Proof.Machine

set_option Elab.async false

/-! ### Arrival -/

/-- A station's frame is taken: its good frame acts on a port that takes frames, or the frame finds none. -/
def Arrives (s g : State) : Prop := g = s ∨ ∃ p, (s.link p).takesFrames = true ∧ g = s.goodFrame p

theorem Arrives.touches {s g : State} (h : Arrives s g) : Touches [.link, .out] s g := by
  rcases h with rfl | ⟨p, -, rfl⟩
  · exact .refl _ _
  · exact s.goodFrame_touches p

/-- From `s` a frame arrives, and its owner goes on from there as `Q` says. -/
def Follows (Q : State → State → Prop) (s t : State) : Prop := ∃ g, Arrives s g ∧ Q g t

/-- From `s` a frame arrives, and what follows touches only `ps`. -/
abbrev ActsOn (ps : List Part) (s t : State) : Prop := Follows (Touches ps) s t

/-- All that an arrival and its effects touch. -/
theorem Follows.touches {ps : List Part} {s t : State} (h : ActsOn ps s t) :
    Touches (.link :: .out :: ps) s t := by
  obtain ⟨g, arrival, acts⟩ := h
  intro x hx
  refine Part.same_trans (arrival.touches.get x ?_) (acts.get x ?_)
  all_goals simp_all

/-- What an owner may do includes nothing, and a reply. -/
structure AllowsReply (Q : State → State → Prop) : Prop where
  refl : ∀ g, Q g g
  reply : ∀ (g : State) (c : Cmd) (r : Result) (items : List Item), Q g (g.reply c r items)

theorem AllowsReply.touches {ps : List Part} (out : [Part.out].all ps.contains = true) :
    AllowsReply (Touches ps) :=
  ⟨fun g => .refl _ g, fun g c r items => (g.reply_touches c r items).mono out⟩

/-! ### Laws that read some parts alone -/

/-- The law `P` carried from a state to another. -/
def Keeps (P : State → Prop) (s t : State) : Prop := P s → P t

/-- A law that reads no part but `reads`: it stands on wherever none of them is touched. -/
def ReadsOnly (reads : List Part) (P : State → Prop) : Prop :=
  ∀ {s t : State} {ps : List Part}, P s → Touches ps s t → reads.all (fun x => !ps.contains x) = true → P t

section
variable {reads ps : List Part} {P : State → Prop} {s t : State}

theorem Touches.same_of_reads (touched : Touches ps s t) (outside : reads.all (fun x => !ps.contains x) = true) {x : Part}
    (read : x ∈ reads) : x.same s t :=
  touched.get x (by simpa using List.all_eq_true.1 outside x read)

theorem ReadsOnly.allows (law : ReadsOnly reads P)
    (outside : reads.all (fun x => !([.out] : List Part).contains x) = true := by rfl) : AllowsReply (Keeps P) :=
  ⟨fun _ => id, fun g c r items kept => law kept (g.reply_touches c r items) outside⟩

theorem ReadsOnly.follows (law : ReadsOnly reads P) (follows : Follows (Keeps P) s t)
    (outside : reads.all (fun x => !([.link, .out] : List Part).contains x) = true := by rfl) : P s → P t := by
  obtain ⟨g, arrival, keeps⟩ := follows
  exact fun kept => keeps (law kept arrival.touches outside)

theorem ReadsOnly.acts (law : ReadsOnly reads P) (acts : ActsOn ps s t)
    (outside : reads.all (fun x => !(.link :: .out :: ps : List Part).contains x) = true := by rfl) : P s → P t :=
  fun kept => law kept acts.touches outside

end

section
variable {ps : List Part} {Q : State → State → Prop} {s t : State}

theorem Follows.here (refl : Q s t) : Follows Q s t := ⟨s, .inl rfl, refl⟩

theorem State.reply_among (s : State) (c : Cmd) (r : Result) (items : List Item)
    (out : [Part.out].all ps.contains = true := by rfl) : Touches ps s (s.reply c r items) :=
  (s.reply_touches c r items).mono out

/-! ### How a command reaches its owner -/

theorem State.onFrame_acts (s : State) (p : PortNo) {f : State → State} (owner : ∀ g, Q g (f g))
    (refl : ∀ g, Q g g := by exact Touches.refl _) : Follows Q s (s.onFrame p f) := by
  unfold State.onFrame
  split
  · next takes =>
    refine ⟨s.goodFrame p, .inr ⟨p, takes, rfl⟩, ?_⟩
    dsimp only
    split
    · exact owner _
    · exact refl _
  · exact .here (refl _)

theorem State.onCommand_acts (s : State) (c : Cmd) {f : Bool → State → State}
    (owner : ∀ b g, (g.link c.port).isAttached = true → Q g (f b g))
    (allows : AllowsReply Q := by exact .touches rfl) : Follows Q s (s.onCommand c f) := by
  unfold State.onCommand
  split
  · next takes =>
    refine ⟨s.goodFrame c.port, .inr ⟨c.port, takes, rfl⟩, ?_⟩
    dsimp only
    split
    · next attached => exact owner _ _ attached
    · exact allows.reply _ _ _ _
  · exact .here (allows.refl _)

theorem State.asRole_acts (s : State) (c : Cmd) (r : Role) {f : State → State} (owner : ∀ g, Q g (f g))
    (allows : AllowsReply Q := by exact .touches rfl) : Follows Q s (s.asRole c r f) := by
  refine s.onCommand_acts c (fun _ g _ => ?_) allows
  split
  · exact owner g
  · exact allows.reply _ _ _ _

theorem State.asSetting_acts (s : State) (c : Cmd) {f : State → State} (owner : ∀ g, Q g (f g))
    (allows : AllowsReply Q := by exact .touches rfl) : Follows Q s (s.asSetting c f) := by
  unfold State.asSetting State.asDesk
  refine s.asRole_acts c .desk (fun g => ?_) allows
  split
  · exact owner g
  · exact allows.reply _ _ _ _

theorem State.asRecorder_acts (s : State) (c : Cmd) {f : Bool → State → State}
    (owner : ∀ b g, (g.link c.port).isAttached = true → Q g (f b g)) (allows : AllowsReply Q := by exact .touches rfl) : Follows Q s (s.asRecorder c f) := by
  refine s.onCommand_acts c (fun b g attached => ?_) allows
  split
  · exact owner b g attached
  · exact allows.reply _ _ _ _

theorem State.onTake_acts (s : State) (c : Cmd) {f : Bool → State → Take → State}
    (owner : ∀ b g t, (g.link c.port).isAttached = true → Q g (f b g t))
    (allows : AllowsReply Q := by exact .touches rfl) : Follows Q s (s.onTake c f) := by
  refine s.asRecorder_acts c (fun b g attached => ?_) allows
  split
  · exact allows.reply _ _ _ _
  · exact owner _ _ _ attached

theorem State.inDictation_acts (s : State) (c : Cmd) {f : State → Take → State}
    (owner : ∀ g t, Q g (f g t)) (allows : AllowsReply Q := by exact .touches rfl) :
    Follows Q s (s.inDictation c f) := by
  refine s.onTake_acts c (fun _ g t _ => ?_) allows
  split
  · exact owner g t
  · exact allows.reply _ _ _ _

theorem State.opening_acts (s : State) (c : Cmd) {f : State → State} (owner : ∀ g, Q g (f g))
    (allows : AllowsReply Q := by exact .touches rfl) : Follows Q s (s.opening c f) := by
  refine s.asRecorder_acts c (fun _ g _ => ?_) allows
  split
  · exact allows.reply _ _ _ _
  · split
    · exact allows.reply _ _ _ _
    · exact owner g

theorem State.asPlayer_acts (s : State) (c : Cmd) {f : State → Ctx → State}
    (owner : ∀ g x, g.ctx c.port = some x → Q g (f g x)) (allows : AllowsReply Q := by exact .touches rfl) : Follows Q s (s.asPlayer c f) := by
  refine s.onCommand_acts c (fun b g _ => ?_) allows
  split
  · split
    · exact allows.reply _ _ _ _
    · next found => exact owner _ _ found
  · exact allows.reply _ _ _ _

theorem State.answerOffer_acts (s : State) (c : Cmd) (n : ChunkName) {f : State → State}
    (owner : ∀ g, Q g (f g)) (allows : AllowsReply Q := by exact .touches rfl) :
    Follows Q s (s.answerOffer c n f) := by
  unfold State.answerOffer State.asTypist
  refine s.asRole_acts c .typist (fun g => ?_) allows
  split
  · exact owner g
  · split <;> exact allows.reply _ _ _ _

/-- A step of the running part; a part held in reset is left as it is. -/
theorem State.running_acts {f : State → State} (step : s.running f = .next t) (owner : ∀ s, Follows Q s (f s))
    (refl : ∀ g, Q g g := by exact Touches.refl _) : Follows Q s t := by
  unfold State.running at step
  split at step
  · cases step; exact .here (refl _)
  · cases step; exact owner s

/-- A step of the running part that begins with no frame. -/
theorem State.running_touches {f : State → State} (step : s.running f = .next t) (owner : ∀ s, Q s (f s))
    (refl : ∀ g, Q g g := by exact Touches.refl _) : Q s t := by
  unfold State.running at step
  split at step
  · cases step; exact refl _
  · cases step; exact owner s

end

/-! ### Fields that one command writes -/

theorem State.opState_touches (s : State) (o : OpState) : Touches [.opState] s { s with opState := o } := by
  intro x hx
  cases x <;> first
    | rfl
    | exact id
    | exact fun _ => rfl
    | exact ⟨[], by simp⟩
    | exact fun p c hc => .inr ⟨c, hc, rfl⟩
    | simp at hx

theorem State.clock_touches (s : State) (n : Nat) : Touches [.clock] s { s with clock := n } := by
  intro x hx
  cases x <;> first
    | rfl
    | exact id
    | exact fun _ => rfl
    | exact ⟨[], by simp⟩
    | exact fun p c hc => .inr ⟨c, hc, rfl⟩
    | simp at hx

theorem State.clearances_touches (s : State) (t : Table Nat) :
    Touches [.clearances] s { s with clearances := t } := by
  intro x hx
  cases x <;> first
    | rfl
    | exact id
    | exact fun _ => rfl
    | exact ⟨[], by simp⟩
    | exact fun p c hc => .inr ⟨c, hc, rfl⟩
    | simp at hx

theorem State.watermark_touches (s : State) (n : Nat) : Touches [.watermark] s { s with watermark := n } := by
  intro x hx
  cases x <;> first
    | rfl
    | exact id
    | exact fun _ => rfl
    | exact ⟨[], by simp⟩
    | exact fun p c hc => .inr ⟨c, hc, rfl⟩
    | simp at hx

/-- What the setting writes of intake, hand-off and links touch. -/
abbrev settingParts : List Part :=
  [.filter, .defaultAction, .pauseThreshold, .offerTimeout, .grace, .dropTime, .out]

theorem State.settings_touches (s : State) (filter : Vector FilterElem 32) (action : Action)
    (pause offer grace drop : Nat) :
    Touches settingParts s { s with
      filter := filter, defaultAction := action, pauseThreshold := pause, offerTimeout := offer
      grace := grace, dropTime := drop } := by
  intro x hx
  cases x <;> first
    | rfl
    | exact id
    | exact fun _ => rfl
    | exact ⟨[], by simp⟩
    | exact fun p c hc => .inr ⟨c, hc, rfl⟩
    | simp at hx

/-- The take table and its counter replaced. -/
theorem State.takeTable_touches (s : State) (l : Table Take) (n : Nat) :
    Touches [.takes, .takeKeys, .chains, .cues, .takeIdCounter] s { s with takes := l, takeIdCounter := n } := by
  intro x hx
  cases x <;> first
    | rfl
    | exact id
    | exact fun _ => rfl
    | exact ⟨[], by simp⟩
    | exact fun p c hc => .inr ⟨c, hc, rfl⟩
    | simp at hx

theorem State.takes_touches (s : State) (l : Table Take) :
    Touches [.takes, .takeKeys, .chains, .cues] s { s with takes := l } := by
  intro x hx
  cases x <;> first
    | rfl
    | exact id
    | exact fun _ => rfl
    | exact ⟨[], by simp⟩
    | exact fun p c hc => .inr ⟨c, hc, rfl⟩
    | simp at hx

/-- Pool records replaced. -/
theorem State.pools_touches' (s : State) (q : Pools) : Touches [.pools, .parameters] s { s with pools := q } := by
  intro x hx
  cases x <;> first
    | rfl
    | exact id
    | exact fun _ => rfl
    | exact ⟨[], by simp⟩
    | exact fun p c hc => .inr ⟨c, hc, rfl⟩
    | simp at hx

theorem State.port_clearWork (s : State) (r : PortNo) : s.clearWork.port r = { s.port r with
      handoff := { (s.port r).handoff with lapsed := none, reservation := none } } := by
    simp [State.port, State.clearWork]
@[simp] theorem State.link_clearWork (s : State) (r : PortNo) : s.clearWork.link r = s.link r := by
  rw [State.link, State.port_clearWork]; rfl
@[simp] theorem State.intake_clearWork (s : State) (r : PortNo) : s.clearWork.intake r = s.intake r := by
  rw [State.intake, State.port_clearWork]; rfl
@[simp] theorem State.handoff_clearWork (s : State) (r : PortNo) :
    s.clearWork.handoff r = { s.handoff r with lapsed := none, reservation := none } := by
  rw [State.handoff, State.port_clearWork]; rfl
@[simp] theorem State.ctx_clearWork (s : State) (r : PortNo) : s.clearWork.ctx r = s.ctx r := by
  rw [State.ctx, State.port_clearWork]; rfl
@[simp] theorem State.lastDamage_clearWork (s : State) (r : PortNo) :
    (s.clearWork.port r).lastDamage = (s.port r).lastDamage := by rw [State.port_clearWork]

/-- Reservations and lapsed offers become absent, and the ready lists empty (R158). -/
theorem State.clearWork_touches (s : State) : Touches [.pools, .handoff] s s.clearWork := by
  intro x hx
  cases x <;> first
    | rfl
    | exact id
    | (simp only [Part.same]; intro r; simp; done)
    | exact ⟨[], by simp [State.clearWork]⟩
    | (simp only [Part.same, State.ctx_clearWork]; exact fun p c hc => .inr ⟨c, hc, rfl⟩)
    | (simp only [Part.same]; intro k; cases k <;> rfl)
    | exact fun _ => rfl
    | simp at hx

end Sys2Proof.Machine

namespace Sys2Proof.Machine

set_option Elab.async false

/-! ### What each command touches -/

/-- A change of a take's flags or counts. -/
theorem State.countTake_touches (s : State) (n : Nat) (f : Take → Take) (id : ∀ t, (f t).id = t.id := by intro _; rfl)
    (chain : ∀ t, (f t).chain = t.chain := by intro _; rfl) (cues : ∀ t, (f t).cues = t.cues := by intro _; rfl)
    (stop : ∀ t, (f t).endTime = t.endTime := by intro _; rfl) : Touches [.takes] s (s.updTake n f) :=
  s.updTake_touches'' n f id chain cues stop

theorem State.openNew_touches (s : State) (c : Cmd) (matter : Nat) :
    Touches [.takes, .takeKeys, .chains, .cues, .takeIdCounter, .intake, .out] s (s.openNew c matter) := by
  unfold State.openNew
  split
  · exact s.reply_among _ _ _
  · exact .seq (s.takeTable_touches _ _) (.seq (ps := [.intake, .out]) (State.setIntake_touches _ _ _)
      (State.reply_touches _ _ _ _))

theorem State.readoptBlock_touches (s : State) (p : PortNo) (take : Nat) :
    Touches [.intake, .directory, .arbiter] s (s.readoptBlock p take) :=
  .ite (fun _ => .refl _ _) (fun _ => s.closeOpenBlock_touches _)

theorem State.readopt_touches (s : State) (c : Cmd) (take : Nat) :
    Touches [.takes, .intake, .directory, .arbiter, .out] s (s.readopt c take) := by
  unfold State.readopt
  split
  · exact s.reply_among _ _ _
  · exact .ite (fun _ => .seq (s.countTake_touches _ _) (.seq (ps := [.intake, .directory, .arbiter, .out])
      (State.readoptBlock_touches _ _ _) (State.reply_touches _ _ _ _))) (fun _ => s.reply_among _ _ _)

/-- What a recorder command that places a cue and lets the cuts follow touches. -/
abbrev cueParts : List Part := [.cues, .cueArrival] ++ cutParts

/-- A cue placed, a flag of its take changed, and the cut test signalled. -/
theorem State.cueAndSignal_touches (s : State) (take time : Nat) (kind : CueKind) (value : Option Nat)
    (origin : Origin) (f : Take → Take) (id : ∀ t, (f t).id = t.id := by intro _; rfl)
    (chain : ∀ t, (f t).chain = t.chain := by intro _; rfl) (cues : ∀ t, (f t).cues = t.cues := by intro _; rfl)
    (stop : ∀ t, (f t).endTime = t.endTime := by intro _; rfl) :
    Touches cueParts s
      (((s.placeCue take time kind value origin).updTake take f).signalCue take time kind) :=
  .seq (s.placeCue_touches _ _ _ _ _) (.seq (ps := cueParts) (State.countTake_touches _ _ _ id chain cues stop)
    (State.signalCue_touches _ _ _ _))

theorem State.beginReadback_touches (s : State) (c : Cmd) (t : Take) (named : Nat) (below : Bool) :
    Touches [.link, .intake, .ctx, .damage, .takes, .cues, .cueArrival, .out] s (s.beginReadback c t named below) :=
  .seq (s.countTake_touches _ _) (.seq (ps := [.link, .intake, .ctx, .damage, .takes, .cues, .cueArrival, .out])
    (State.placeIfAdmitted_touches _ _ _ _ _ _) (.seq (ps := [.link, .intake, .ctx, .damage, .takes, .out])
      (State.updLink_touches _ _ _) (.seq (ps := [.intake, .ctx, .damage, .takes, .out])
        (State.clearDiscard_touches _ _) (.seq (ps := [.ctx, .damage, .takes, .out])
          (State.createCtx_touches _ _ _ _ _ _ _ _ _) (State.reply_touches _ _ _ _)))))

/-- What a hold made by a link touches. -/
abbrev claimParts : List Part := [.ctx, .damage, .takes] ++ offerParts

/-- Making a hold writes no log record and asks for no read. -/
theorem State.makeHold_touches' (s : State) (p : PortNo) (n : ChunkName) :
    Touches [.ctx, .damage, .takes, .pools, .handoff, .chunks] s (s.makeHold p n) :=
  .seq (s.leaveReady_touches p) (.seq (ps := [.ctx, .damage, .takes, .handoff, .chunks])
    (State.updChunk_touches _ _ _) (State.loadTypist_touches _ _ _ _))

theorem State.claimChunk_touches (s : State) (p : PortNo) (n : ChunkName) :
    Touches claimParts s (s.claimChunk p n) :=
  .seq (s.dropReservation_touches p) (.seq (ps := claimParts) (State.endOffer_touches _ _ _ _)
    (.seq (ps := claimParts) (State.makeHold_touches' _ _ _) (State.offerPassOf_touches _ _)))

theorem State.resumeHold_touches (s : State) (p : PortNo) (x : Chunk) :
    Touches claimParts s (s.resumeHold p x) :=
  .seq (s.endOffer_touches _ _ _) (.seq (ps := claimParts) (State.updChunk_touches _ _ _)
    (.seq (ps := claimParts) (State.loadTypist_touches _ _ _ _) (State.offerPassOf_touches _ _)))

theorem State.cancelOffer_touches (s : State) (p : PortNo) : Touches [.handoff] s (s.cancelOffer p) :=
  s.setHandoff_touches p _

theorem State.completeRelease_touches (s : State) (take : Nat) :
    Touches [.takes, .takeKeys, .chains, .cues, .out] s (s.completeRelease take) :=
  .seq (s.takes_touches _) (State.notifyDesks_touches _ _)

theorem State.freeHead_touches (s : State) (take block : Nat) :
    Touches [.takes, .chains, .free, .directory, .store, .lowFlag, .out] s (s.freeHead take block) := by
  have freed (u : State) : Touches [.free, .directory, .store] u { u with
      free := u.free.push block, directory := Table.drop u.directory block
      store := Table.drop u.store block } :=
    .seq (u.taking_touches _ _ fun wf => TableLaws.drop_wf wf _)
      (State.store_touches { u with free := u.free.push block, directory := Table.drop u.directory block } _
        fun wf => TableLaws.drop_wf wf _)
  exact .seq (s.growChain_touches _ _ (by intro _; rfl) (by intro _; rfl) (by intro _; rfl))
    (.seq (ps := [.free, .directory, .store, .lowFlag, .out]) (freed _) (State.testLow_touches _))

theorem State.completeWrite_touches (s : State) (r : WriteReq) :
    Touches [.store, .directory, .intake] s (s.completeWrite r) :=
  .seq (s.store_touches _ fun wf => TableLaws.put_wf wf _ _)
    (.seq (ps := [.directory, .intake]) (State.directory_touches _ _ fun wf => TableLaws.change_wf wf _ _)
      (State.setBuf_touches _ _ _ _))

theorem State.tellPlayer_touches (s : State) (p : PortNo) (block take start stop : Nat) :
    Touches [.damage, .out] s (s.tellPlayer p block take start stop) :=
  .seq (State.notify_touches _ _ _) (State.setLastDamage_touches _ _ _)

theorem State.tellDamage_touches (s : State) (p : PortNo) (block take start stop : Nat) (wanted : Bool) :
    Touches [.damage, .out] s (s.tellDamage p block take start stop wanted) := by
  have told : Touches [.damage, .out] s (if wanted then s.tellPlayer p block take start stop else s) :=
    .ite (fun _ => s.tellPlayer_touches _ _ _ _ _) (fun _ => .refl _ _)
  exact .seq told (State.notifyEach_touches _ _ _)

theorem State.markDamaged_touches (s : State) (block take : Nat) :
    Touches [.directory, .takes] s (s.markDamaged block take) :=
  .seq (s.directory_touches _ fun wf => TableLaws.change_wf wf _ _) (State.countTake_touches _ _ _)

/-- What the damage a read finds may touch. -/
abbrev damageParts : List Part := [.store, .directory, .takes, .damage, .out]

theorem State.readStored_touches (s : State) (r : ReadReq) (block start stop : Nat) (wanted : Bool)
    (upsets : List Upset) : Touches damageParts s (s.readStored r block start stop wanted upsets).1 := by
  unfold State.readStored
  split
  · have stored (d : Stored) : Touches [.store] s { s with store := Table.put s.store block d } :=
      s.store_touches _ fun wf => TableLaws.put_wf wf _ _
    dsimp only
    split
    · exact (stored _).mono rfl
    · exact .seq (stored _) (.seq (ps := damageParts) (State.markDamaged_touches _ _ _)
        (State.tellDamage_touches _ _ _ _ _ _ _))
  · exact .refl _ _

theorem State.readDamaged_touches (s : State) (r : ReadReq) (block start stop : Nat) (wanted : Bool) :
    Touches [.damage, .out] s (s.readDamaged r block start stop wanted) :=
  .ite (fun _ => s.tellPlayer_touches _ _ _ _ _) (fun _ => .refl _ _)

theorem State.readContent_touches (s : State) (r : ReadReq) (block : Option Nat) (recStart stop : Nat)
    (source : Source) (wanted : Bool) (upsets : List Upset) :
    Touches damageParts s (s.readContent r block recStart stop source wanted upsets).1 := by
  unfold State.readContent
  split
  · exact .refl _ _
  · have stored := s.readStored_touches r ‹_› recStart stop wanted upsets
    split
    · next found => rw [found] at stored; exact stored
    · next found => rw [found] at stored; exact stored
  · exact (s.readDamaged_touches _ _ _ _ _).mono rfl
  all_goals exact .refl _ _

theorem State.fallOffer_touches (s : State) (q : PortNo) (level : Nat) :
    Touches offerParts s (s.fallOffer q level) := by
  unfold State.fallOffer
  split
  · exact .ite (fun _ => s.withdrawOffer_touches _ _ _) (fun _ => .refl _ _)
  · exact .refl _ _

theorem State.fallReservation_touches (s : State) (q : PortNo) (level : Nat) :
    Touches [.handoff] s (s.fallReservation q level) := by
  unfold State.fallReservation
  split
  · exact .ite (fun _ => s.dropReservation_touches _) (fun _ => .refl _ _)
  · exact .refl _ _

theorem State.carryClearance_touches (s : State) (station old level : Nat) :
    Touches (.link :: offerParts) s (s.carryClearance station old level) := by
  unfold State.carryClearance
  split
  · exact .refl _ _
  · refine .ite (fun _ => .refl _ _) (fun _ => ?_)
    have fallen (q : PortNo) (u : State) : Touches offerParts u
        (if level < old then (u.fallOffer q level).fallReservation q level else u.offerPass? (u.readyPool q)) :=
      .ite (fun _ => .seq (u.fallOffer_touches _ _) (State.fallReservation_touches _ _ _))
        (fun _ => u.offerPassOf_touches _)
    exact .seq (s.updLink_touches _ _) (fallen _ _)

end Sys2Proof.Machine

/-!
PROOFS. What the commands of the links, the recorders and the players touch (chapters 1, 2, 7, 8 and 9).
-/

namespace Sys2Proof.Machine

set_option Elab.async false

section
variable {s t : State}

/-! ### Port events, frames without an owner, and link commands -/

theorem execCarrierArrives_acts {p : PortNo} (step : execCarrierArrives p s = .next t) : Touches [.link] s t :=
  State.running_touches step fun s => .ite
    (fun _ => .ite (fun _ => s.updLink_touches _ _) (fun _ => s.updLink_touches _ _)) (fun _ => .refl _ _)

theorem execCarrierLost_acts {p : PortNo} (step : execCarrierLost p s = .next t) : Touches lossParts s t :=
  State.running_touches step fun s => .ite (fun _ => .refl _ _)
    (fun _ => .seq (s.loseLink_touches p) (State.updLink_touches _ _ _))

theorem execLineBreak_acts {p : PortNo} (step : execLineBreak p s = .next t) : Touches lossParts s t :=
  State.running_touches step fun s => .ite (fun _ => .refl _ _)
    (fun _ => .seq (s.loseLink_touches p) (State.updLink_touches _ _ _))

theorem execBadFrame_acts {p : PortNo} (step : execBadFrame p s = .next t) : Touches lossParts s t :=
  State.running_touches step fun s => .ite (fun _ => s.badFrameTaken_touches p) (fun _ => .refl _ _)

theorem execFrameIgnoredFaulted_acts {p : PortNo} (step : execFrameIgnoredFaulted p s = .next t) : Touches [] s t :=
  State.running_touches step fun _ => .refl _ _

theorem execIdle_acts {p : PortNo} (step : execIdle p s = .next t) : ActsOn [.out] s t :=
  State.running_acts step fun s => s.onFrame_acts p fun _ => .refl _ _

theorem execCommandUnknown_acts {p : PortNo} {tag : Byte} {code : Nat}
    (step : execCommandUnknown p tag code s = .next t) : ActsOn [.out] s t :=
  State.running_acts step fun s => by
    split
    · next takes => exact ⟨s.goodFrame p, .inr ⟨p, takes, rfl⟩, State.reply_among _ _ _ _⟩
    · exact Follows.here (.refl _ _)

theorem State.attachPort_touches (s : State) (c : Cmd) (station : Nat) (role : Role) (mask : Nat) :
    Touches [.link, .intake, .out] s (s.attachPort c station role mask) :=
  .seq (s.updLink_touches _ _) (.seq (ps := [.intake, .out]) (State.clearDiscard_touches _ _)
    (State.reply_touches _ _ _ _))

theorem execAttach_acts {p : PortNo} {tag : Byte} {station role mask : Nat}
    (step : execAttach p tag station role mask s = .next t) : ActsOn [.link, .intake, .out] s t :=
  State.running_acts step fun s => by
    dsimp only
    split
    · next takes =>
      refine ⟨s.goodFrame p, .inr ⟨p, takes, rfl⟩, .ite (fun _ => State.reply_among _ _ _ _) (fun _ => ?_)⟩
      split
      · exact State.reply_among _ _ _ _
      · exact .ite (fun _ => State.reply_among _ _ _ _) (fun _ =>
          .ite (fun _ => State.reply_among _ _ _ _) (fun _ => State.attachPort_touches _ _ _ _ _))
    · exact Follows.here (.refl _ _)

theorem execDetach_acts {p : PortNo} {tag : Byte} (step : execDetach p tag s = .next t) : ActsOn lossParts s t :=
  State.running_acts step fun s => s.onCommand_acts _ fun _ g _ =>
    .seq (g.loseLink_touches p) (.seq (ps := lossParts) (State.updLink_touches _ _ _) (State.reply_touches _ _ _ _))

theorem execSetMask_acts {p : PortNo} {tag : Byte} {mask : Nat} (step : execSetMask p tag mask s = .next t) :
    ActsOn [.link, .out] s t :=
  State.running_acts step fun s => s.onCommand_acts _ fun _ g _ =>
    .ite (fun _ => .seq (g.updLink_touches _ _) (State.reply_touches _ _ _ _)) (fun _ => g.reply_among _ _ _)

/-! ### Recorder commands -/

theorem execAudioSpeech_acts {p : PortNo} {coded : Coded} (step : execAudioSpeech p coded s = .next t) :
    ActsOn audioParts s t :=
  State.running_acts step fun s => s.onFrame_acts p fun g =>
    .ite (fun _ => g.takeAudio_touches _ _) (fun _ => .refl _ _)

theorem execAudioSilence_acts {p : PortNo} {count : Nat} (step : execAudioSilence p count s = .next t) :
    ActsOn audioParts s t :=
  State.running_acts step fun s => s.onFrame_acts p fun g =>
    .ite (fun _ => g.takeAudio_touches _ _) (fun _ => .refl _ _)

theorem execOpenTake_acts {p : PortNo} {tag : Byte} {matter : Nat} (step : execOpenTake p tag matter s = .next t) :
    ActsOn [.takes, .takeKeys, .chains, .cues, .takeIdCounter, .intake, .out] s t :=
  State.running_acts step fun s => s.opening_acts _ fun g => g.openNew_touches _ _

theorem execOpenTakeContinue_acts {p : PortNo} {tag : Byte} {matter take : Nat}
    (step : execOpenTakeContinue p tag matter take s = .next t) :
    ActsOn [.takes, .intake, .directory, .arbiter, .out] s t :=
  State.running_acts step fun s => s.opening_acts _ fun g => g.readopt_touches _ _

theorem execPause_acts {p : PortNo} {tag : Byte} (step : execPause p tag s = .next t) :
    ActsOn (.intake :: cueParts) s t :=
  State.running_acts step fun s => s.onTake_acts _ fun _ g u _ => .ite (fun _ => by
    have paused : Touches gapParts g
        (g.pauseTake p u fun g => g.placeIfAdmitted u.id u.endTime .pause none .recorder) :=
      g.pauseTake_touches _ _ _ fun v => (v.placeIfAdmitted_touches _ _ _ _ _).mono rfl
    have signalled (placed : Prop) [Decidable placed] (v : State) : Touches cutParts v
        (if placed then v.signalCue u.id u.endTime .pause else v) :=
      .ite (fun _ => v.signalCue_touches _ _ _) (fun _ => .refl _ _)
    exact .seq paused (.seq (ps := .intake :: cueParts) (signalled _ _) (State.reply_touches _ _ _ _)))
    (fun _ => g.reply_among _ _ _)

theorem execResume_acts {p : PortNo} {tag : Byte} (step : execResume p tag s = .next t) :
    ActsOn [.takes, .cues, .cueArrival, .out] s t :=
  State.running_acts step fun s => s.onTake_acts _ fun _ g u _ => .ite
    (fun _ => .seq (g.placeIfAdmitted_touches _ _ _ _ _) (.seq (ps := [.takes, .out])
      (State.countTake_touches _ _ _) (State.reply_touches _ _ _ _)))
    (fun _ => g.reply_among _ _ _)

theorem execCloseTake_acts {p : PortNo} {tag : Byte} (step : execCloseTake p tag s = .next t) :
    ActsOn closeParts s t :=
  State.running_acts step fun s => s.onTake_acts _ fun _ g u _ => .ite (fun _ => g.reply_among _ _ _)
    (fun _ => .seq (g.closeTake_touches _ _) (State.reply_touches _ _ _ _))

theorem execMark_acts {p : PortNo} {tag : Byte} {kind number : Nat} (step : execMark p tag kind number s = .next t) :
    ActsOn cueParts s t :=
  State.running_acts step fun s => s.onTake_acts _ fun _ g u _ => by
    split
    · exact g.reply_among _ _ _
    · exact .ite (fun _ => .ite (fun _ => .seq (g.placeCue_touches _ _ _ _ _) (.seq (ps := cueParts)
        (State.signalCue_touches _ _ _ _) (State.replyClamped_touches _ _ _ _)))
        (fun _ => g.reply_among _ _ _)) (fun _ => g.reply_among _ _ _)

theorem execOffRecordBegin_acts {p : PortNo} {tag : Byte} (step : execOffRecordBegin p tag s = .next t) :
    ActsOn cueParts s t :=
  State.running_acts step fun s => s.inDictation_acts _ fun g u => .ite (fun _ => g.reply_among _ _ _) (fun _ =>
    .ite (fun _ => .seq (g.cueAndSignal_touches _ _ _ _ _ _) (State.reply_touches _ _ _ _))
      (fun _ => g.reply_among _ _ _))

theorem execOffRecordEnd_acts {p : PortNo} {tag : Byte} (step : execOffRecordEnd p tag s = .next t) :
    ActsOn cueParts s t :=
  State.running_acts step fun s => s.inDictation_acts _ fun g u => .ite
    (fun _ => .ite (fun _ => .seq (g.cueAndSignal_touches _ _ _ _ _ _) (State.reply_touches _ _ _ _))
      (fun _ => g.reply_among _ _ _)) (fun _ => g.reply_among _ _ _)

theorem execRestrictBegin_acts {p : PortNo} {tag : Byte} {level : Nat}
    (step : execRestrictBegin p tag level s = .next t) : ActsOn cueParts s t :=
  State.running_acts step fun s => s.inDictation_acts _ fun g u => .ite (fun _ => g.reply_among _ _ _) (fun _ =>
    .ite (fun _ => .seq (g.cueAndSignal_touches _ _ _ _ _ _) (State.replyClamped_touches _ _ _ _))
      (fun _ => g.reply_among _ _ _))

theorem execRestrictEnd_acts {p : PortNo} {tag : Byte} (step : execRestrictEnd p tag s = .next t) :
    ActsOn cueParts s t :=
  State.running_acts step fun s => s.inDictation_acts _ fun g u => .ite
    (fun _ => .ite (fun _ => .seq (g.cueAndSignal_touches _ _ _ _ _ _) (State.reply_touches _ _ _ _))
      (fun _ => g.reply_among _ _ _)) (fun _ => g.reply_among _ _ _)

theorem execReadbackBegin_acts {p : PortNo} {tag : Byte} {form value : Nat}
    (step : execReadbackBegin p tag form value s = .next t) :
    ActsOn [.link, .intake, .ctx, .damage, .takes, .cues, .cueArrival, .out] s t :=
  State.running_acts step fun s => s.onTake_acts _ fun _ g u _ => by
    split
    · exact g.reply_among _ _ _
    · refine .ite (fun _ => g.reply_among _ _ _) (fun _ => .ite (fun _ => g.reply_among _ _ _) (fun _ => ?_))
      split
      · exact g.reply_among _ _ _
      · exact g.beginReadback_touches _ _ _ _

theorem execReadbackEnd_acts {p : PortNo} {tag : Byte} (step : execReadbackEnd p tag s = .next t) :
    ActsOn (.out :: readerParts) s t :=
  State.running_acts step fun s => s.onTake_acts _ fun _ g u _ => .ite
    (fun _ => .seq (g.endReadback_touches _ _ _ _) (State.reply_touches _ _ _ _)) (fun _ => g.reply_among _ _ _)

/-! ### Players -/

theorem execPlay_acts {p : PortNo} {tag : Byte} (step : execPlay p tag s = .next t) : ActsOn playParts s t :=
  State.running_acts step fun s => s.onCommand_acts _ fun _ g _ => .ite (fun _ => by
    split
    · exact g.reply_among _ _ _
    · next x ctx =>
      refine .ite (fun _ => .ite (fun _ => ?_) (fun _ => .seq (g.reply_touches _ _ _) (State.notify_touches _ _ _)))
        (fun _ => g.reply_among _ _ _)
      exact .seq (State.reCtx_touches ctx x.started rfl) (.seq (ps := playParts) (State.reply_touches _ _ _ _)
        (.seq (ps := playParts) (State.askReads_touches _ _) (State.sendIfCovered_touches _ _))))
    (fun _ => g.reply_among _ _ _)

theorem execStop_acts {p : PortNo} {tag : Byte} (step : execStop p tag s = .next t) :
    ActsOn [.ctx, .arbiter, .out] s t :=
  State.running_acts step fun s => s.asPlayer_acts _ fun g _ _ =>
    .seq (g.stopCtx_touches p) (State.reply_touches _ _ _ _)

/-- What an accepted move touches. -/
abbrev moveParts : List Part := [.ctx, .positions, .arbiter, .out]

theorem execStepBack_acts {p : PortNo} {tag : Byte} {n : Nat} (step : execStepBack p tag n s = .next t) :
    ActsOn moveParts s t :=
  State.running_acts step fun s => s.asPlayer_acts _ fun g _ _ => g.move_touches _ _ _ _

theorem execStepAhead_acts {p : PortNo} {tag : Byte} {n : Nat} (step : execStepAhead p tag n s = .next t) :
    ActsOn moveParts s t :=
  State.running_acts step fun s => s.asPlayer_acts _ fun g _ _ => g.move_touches _ _ _ _

theorem execSeek_acts {p : PortNo} {tag : Byte} {n : Nat} (step : execSeek p tag n s = .next t) :
    ActsOn moveParts s t :=
  State.running_acts step fun s => s.asPlayer_acts _ fun g _ _ => g.move_touches _ _ _ _

theorem execJumpTime_acts {p : PortNo} {tag : Byte} {n : Nat} (step : execJumpTime p tag n s = .next t) :
    ActsOn moveParts s t :=
  State.running_acts step fun s => s.asPlayer_acts _ fun g _ _ => g.move_touches _ _ _ _

theorem execSeekCue_acts {p : PortNo} {tag : Byte} {direction kinds : Nat}
    (step : execSeekCue p tag direction kinds s = .next t) : ActsOn moveParts s t :=
  State.running_acts step fun s => s.asPlayer_acts _ fun g _ _ => by
    split
    · exact g.reply_among _ _ _
    · refine .ite (fun _ => ?_) (fun _ => g.reply_among _ _ _)
      split
      · exact g.reply_among _ _ _
      · exact g.move_touches _ _ _ _

theorem execJumpCue_acts {p : PortNo} {tag : Byte} {cue : Nat} (step : execJumpCue p tag cue s = .next t) :
    ActsOn moveParts s t :=
  State.running_acts step fun s => s.asPlayer_acts _ fun g _ _ => by
    split
    · exact g.reply_among _ _ _
    · exact g.move_touches _ _ _ _

theorem execBacktrack_acts {p : PortNo} {tag : Byte} (step : execBacktrack p tag s = .next t) :
    ActsOn moveParts s t :=
  State.running_acts step fun s => s.asPlayer_acts _ fun g _ _ => by
    split
    · exact g.reply_among _ _ _
    · exact g.move_touches _ _ _ _

theorem execPlayFrameDue_acts {p : PortNo} (step : execPlayFrameDue p s = .next t) : Touches playParts s t :=
  State.running_touches step fun s => by
    split
    · exact .refl _ _
    · next x ctx =>
      refine .ite (fun _ => ?_) (fun _ => .refl _ _)
      split
      · exact s.sendPlayFrame_touches _ _ _
      · exact .seq (State.reCtx_touches ctx { x with mode := .stalled } rfl) (.seq (ps := playParts)
          (State.notify_touches _ _ _) (State.askReads_touches _ _))

end

end Sys2Proof.Machine

/-!
PROOFS. What the commands of the typists, the desks and the office and the part's own events touch, and what any
command does (chapters 1 to 10).
-/

namespace Sys2Proof.Machine

set_option Elab.async false

section
variable {s t : State}

/-! ### Typist commands -/

theorem execReady_acts {p : PortNo} {tag : Byte} {pool : Nat} (step : execReady p tag pool s = .next t) :
    ActsOn offerParts s t :=
  State.running_acts step fun s => s.asRole_acts _ _ fun g => .ite (fun _ => g.reply_among _ _ _) (fun _ => by
    split
    · exact g.reply_among _ _ _
    · exact .ite (fun _ => g.reply_among _ _ _) (fun _ => .ite (fun _ => g.reply_among _ _ _) (fun _ =>
        .seq (g.joinReady_touches _ _) (.seq (ps := offerParts) (State.reply_touches _ _ _ _)
          (State.offerPass_touches _ _)))))

theorem execUnready_acts {p : PortNo} {tag : Byte} (step : execUnready p tag s = .next t) :
    ActsOn [.pools, .out] s t :=
  State.running_acts step fun s => s.asRole_acts _ _ fun g =>
    .seq (g.leaveReady_touches _) (State.reply_touches _ _ _ _)

theorem execPeek_acts {p : PortNo} {tag : Byte} {pool : Nat} (step : execPeek p tag pool s = .next t) :
    ActsOn [.handoff, .out] s t :=
  State.running_acts step fun s => s.asRole_acts _ _ fun g => .ite (fun _ => g.reply_among _ _ _) (fun _ => by
    split
    · exact g.reply_among _ _ _
    · split
      · exact .seq (g.dropReservation_touches _) (State.reply_touches _ _ _ _)
      · exact .seq (g.setHandoff_touches _ _) (State.reply_touches _ _ _ _))

theorem execClaim_acts {p : PortNo} {tag : Byte} (step : execClaim p tag s = .next t) : ActsOn claimParts s t :=
  State.running_acts step fun s => s.asRole_acts _ _ fun g => .ite (fun _ => g.reply_among _ _ _) (fun _ =>
    .ite (fun _ => .seq (g.dropReservation_touches _) (State.reply_touches _ _ _ _)) (fun _ => by
      split
      · exact g.reply_among _ _ _
      · exact .seq (g.claimChunk_touches _ _) (State.reply_touches _ _ _ _)))

theorem execAccept_acts {p : PortNo} {tag : Byte} {take ordinal : Nat}
    (step : execAccept p tag take ordinal s = .next t) : ActsOn claimParts s t :=
  State.running_acts step fun s => s.answerOffer_acts _ _ fun g =>
    .seq (g.cancelOffer_touches p) (.seq (ps := claimParts) (State.makeHold_touches' _ _ _)
      (State.reply_touches _ _ _ _))

theorem execDecline_acts {p : PortNo} {tag : Byte} {take ordinal : Nat}
    (step : execDecline p tag take ordinal s = .next t) : ActsOn offerParts s t :=
  State.running_acts step fun s => s.answerOffer_acts _ _ fun g =>
    .seq (g.cancelOffer_touches p) (.seq (ps := offerParts) (State.updChunk_touches _ _ _)
      (.seq (ps := offerParts) (State.reply_touches _ _ _ _) (State.offerPassOf_touches _ _)))

/-- What a FINISH touches. -/
abbrev finishParts : List Part := [.ctx, .log, .overrun, .arbiter] ++ cutParts

theorem execFinish_acts {p : PortNo} {tag : Byte} {pages : Nat} (step : execFinish p tag pages s = .next t) :
    ActsOn finishParts s t :=
  State.running_acts step fun s => s.asRole_acts _ _ fun g => by
    split
    · exact g.reply_among _ _ _
    · exact .seq (g.logWrite_touches _) (.seq (ps := finishParts) (State.removeCtx_touches _ _)
        (.seq (ps := finishParts) (State.countTake_touches _ _ _) (.seq (ps := finishParts)
          (State.freeChunk_touches _ _) (.seq (ps := finishParts) (State.reply_touches _ _ _ _)
            (State.serveDeferral_touches _ _)))))

/-- What a YIELD touches. -/
abbrev yieldParts : List Part := [.ctx, .takes, .arbiter, .log, .overrun] ++ offerParts

theorem execYield_acts {p : PortNo} {tag : Byte} (step : execYield p tag s = .next t) : ActsOn yieldParts s t :=
  State.running_acts step fun s => s.asRole_acts _ _ fun g => by
    split
    · exact g.reply_among _ _ _
    · have ended (c : Cmd) (x : Chunk) (u : State) : Touches yieldParts u
          (if x.recallPending then (u.parkChunk x).ok c []
            else ((u.updChunk x.name Chunk.unhold).ok c []).offerPass? x.pool) :=
        .ite (fun _ => .seq (u.parkChunk_touches _) (State.reply_touches _ _ _ _))
          (fun _ => .seq (u.updChunk_touches _ _) (.seq (ps := yieldParts) (State.reply_touches _ _ _ _)
            (State.offerPassOf_touches _ _)))
      exact .seq (g.removeCtx_touches p) (ended _ _ _)

theorem execResumeHold_acts {p : PortNo} {tag : Byte} (step : execResumeHold p tag s = .next t) :
    ActsOn claimParts s t :=
  State.running_acts step fun s => s.asRole_acts _ _ fun g => .ite (fun _ => g.reply_among _ _ _) (fun _ => by
    split
    · exact g.reply_among _ _ _
    · exact .seq (g.resumeHold_touches _ _) (State.reply_touches _ _ _ _))

theorem execOfferTimerExpiry_acts {p : PortNo} (step : execOfferTimerExpiry p s = .next t) :
    Touches offerParts s t :=
  State.running_touches step fun s => by
    split
    · exact .refl _ _
    · exact .seq (s.setHandoff_touches _ _) (.seq (ps := offerParts) (State.updChunk_touches _ _ _)
        (.seq (ps := offerParts) (State.notify_touches _ _ _) (State.offerPassOf_touches _ _)))

/-- What a recall or the end of a lapse touches. -/
abbrev recallParts : List Part := [.log, .overrun] ++ offerParts

theorem execGraceTimerExpiry_acts {take ordinal : Nat} (step : execGraceTimerExpiry take ordinal s = .next t) :
    Touches recallParts s t :=
  State.running_touches step fun s => by
    split
    · exact .refl _ _
    · exact .ite (fun _ => .seq (s.logWrite_touches _) (.seq (ps := recallParts) (State.updChunk_touches _ _ _)
        (State.offerPassOf_touches _ _))) (fun _ => .refl _ _)

/-! ### Desk commands -/

theorem execCloseTakeDesk_acts {p : PortNo} {tag : Byte} {take : Nat}
    (step : execCloseTakeDesk p tag take s = .next t) : ActsOn closeParts s t :=
  State.running_acts step fun s => s.asRole_acts _ _ fun g => by
    split
    · exact g.reply_among _ _ _
    · exact .ite (fun _ => .seq (g.closeTake_touches _ _) (State.reply_touches _ _ _ _))
        (fun _ => .ite (fun _ => g.reply_among _ _ _) (fun _ => g.reply_among _ _ _))

theorem execRestrictSpan_acts {p : PortNo} {tag : Byte} {take start stop level : Nat}
    (step : execRestrictSpan p tag take start stop level s = .next t) : ActsOn (.ctx :: cueParts) s t :=
  State.running_acts step fun s => s.asRole_acts _ _ fun g => by
    split
    · exact g.reply_among _ _ _
    · exact .ite (fun _ => g.reply_among _ _ _) (fun _ => .ite (fun _ => g.reply_among _ _ _) (fun _ =>
        .ite (fun _ => .seq (g.placeSpan_touches _ _ _ _) (.seq (ps := .ctx :: cueParts)
          (State.spoilExports_touches _ _) (.seq (ps := .ctx :: cueParts) (State.signalCue_touches _ _ _ _)
            (.seq (ps := .ctx :: cueParts) (State.signalCue_touches _ _ _ _) (.seq (ps := .ctx :: cueParts)
              (State.raiseChunks_touches _ _ _ _ _) (State.replyClamped_touches _ _ _ _))))))
          (fun _ => g.reply_among _ _ _)))

/-- What a release touches before its steps run. -/
abbrev releaseParts : List Part := [.takes, .takeKeys, .chains, .cues, .arbiter, .out]

theorem execReleaseTake_acts {p : PortNo} {tag : Byte} {take : Nat} (step : execReleaseTake p tag take s = .next t) :
    ActsOn releaseParts s t :=
  State.running_acts step fun s => s.asRole_acts _ _ fun g => by
    split
    · exact g.reply_among _ _ _
    · split
      · exact g.reply_among _ _ _
      · have released (empty : Prop) [Decidable empty] (steps : Nat) (u : State) : Touches releaseParts u
            (if empty then u.completeRelease take else u.requestRelease take steps) :=
          .ite (fun _ => (u.completeRelease_touches _).mono rfl) (fun _ => (u.requestRelease_touches _ _).mono rfl)
        exact .seq (g.countTake_touches _ _) (.seq (ps := releaseParts) (State.reply_touches _ _ _ _) (released _ _ _))

/-- What an export's beginning touches. -/
abbrev exportBeginParts : List Part := [.ctx, .damage, .takes, .arbiter, .out, .speech]

theorem execExportBegin_acts {p : PortNo} {tag : Byte} {take : Nat} (step : execExportBegin p tag take s = .next t) :
    ActsOn exportBeginParts s t :=
  State.running_acts step fun s => s.asRole_acts _ _ fun g => .ite (fun _ => g.reply_among _ _ _) (fun _ => by
    split
    · exact g.reply_among _ _ _
    · exact .ite (fun _ => g.reply_among _ _ _) (fun _ => .seq (g.createCtx_touches _ _ _ _ _ _ _ _)
        (.seq (ps := exportBeginParts) (State.reply_touches _ _ _ _) (State.continueExport_touches _ _))))

theorem execExportStop_acts {p : PortNo} {tag : Byte} (step : execExportStop p tag s = .next t) :
    ActsOn [.ctx, .takes, .arbiter, .out] s t :=
  State.running_acts step fun s => s.asRole_acts _ _ fun g => by
    split
    · exact g.reply_among _ _ _
    · exact .seq (g.removeCtx_touches _) (State.reply_touches _ _ _ _)

theorem execRecall_acts {p : PortNo} {tag : Byte} {take ordinal : Nat}
    (step : execRecall p tag take ordinal s = .next t) : ActsOn recallParts s t :=
  State.running_acts step fun s => s.asRole_acts _ _ fun g => by
    split
    · exact g.reply_among _ _ _
    · split
      · exact g.reply_among _ _ _
      · exact .seq (g.updChunk_touches _ _) (.seq (ps := recallParts) (State.logWrite_touches _ _)
          (State.reply_touches _ _ _ _))
      · exact .seq (g.recallOffered_touches _) (State.reply_touches _ _ _ _)
      · exact .seq (g.recallHeld_touches _) (State.reply_touches _ _ _ _)
      · exact .seq (g.parkChunk_touches _) (State.reply_touches _ _ _ _)

theorem execRepool_acts {p : PortNo} {tag : Byte} {take ordinal pool : Nat}
    (step : execRepool p tag take ordinal pool s = .next t) : ActsOn offerParts s t :=
  State.running_acts step fun s => s.asRole_acts _ _ fun g => by
    split
    · exact g.reply_among _ _ _
    · split
      · exact g.reply_among _ _ _
      · exact .ite (fun _ => g.reply_among _ _ _) (fun _ => .seq (g.repoolChunk_touches _ _)
          (.seq (ps := offerParts) (State.reply_touches _ _ _ _) (State.offerPass_touches _ _)))

theorem execFetchLog_acts {p : PortNo} {tag : Byte} {n : Nat} (step : execFetchLog p tag n s = .next t) :
    ActsOn [.log, .overrun, .out] s t :=
  State.running_acts step fun s => s.asRole_acts _ _ fun g => by
    have fetched (l : List LogRec) (h : l.length ≤ g.log.length) :
        Touches [.log, .overrun] g { g with log := l, overrun := false } :=
      .seq (g.log_touches l h.trans) (State.overrun_touches { g with log := l } false)
    exact .seq (fetched (g.log.drop (clamp 1 8 n)) (by simp)) (State.reply_touches _ _ _ _)

/-! ### Office and setting commands -/

theorem execSetClock_acts {p : PortNo} {tag : Byte} {seconds : Nat} (step : execSetClock p tag seconds s = .next t) :
    ActsOn [.clock, .out] s t :=
  State.running_acts step fun s => s.asRole_acts _ _ fun g =>
    .seq (g.clock_touches _) (State.reply_touches _ _ _ _)

/-- What a write of the clearance table touches. -/
abbrev clearanceParts : List Part := [.clearances, .link] ++ offerParts

theorem execSetClearance_acts {p : PortNo} {tag : Byte} {station level : Nat}
    (step : execSetClearance p tag station level s = .next t) : ActsOn clearanceParts s t :=
  State.running_acts step fun s => s.asRole_acts _ _ fun g => .ite (fun _ => g.reply_among _ _ _) (fun _ => by
    dsimp only
    split
    · exact g.reply_among _ _ _
    · exact .seq (g.clearances_touches _) (.seq (ps := clearanceParts) (State.carryClearance_touches _ _ _ _)
        (State.reply_touches _ _ _ _)))

theorem execGetClearance_acts {p : PortNo} {tag : Byte} {station : Nat}
    (step : execGetClearance p tag station s = .next t) : ActsOn [.out] s t :=
  State.running_acts step fun s => s.asRole_acts _ _ fun g =>
    .ite (fun _ => g.reply_among _ _ _) (fun _ => g.reply_among _ _ _)

theorem execStatus_acts {p : PortNo} {tag : Byte} (step : execStatus p tag s = .next t) : ActsOn [.out] s t :=
  State.running_acts step fun s => s.asRole_acts _ _ fun g => g.reply_among _ _ _

theorem execListTakes_acts {p : PortNo} {tag : Byte} {start : Nat} (step : execListTakes p tag start s = .next t) :
    ActsOn [.out] s t :=
  State.running_acts step fun s => s.asRole_acts _ _ fun g => g.reply_among _ _ _

theorem execListCues_acts {p : PortNo} {tag : Byte} {take start : Nat}
    (step : execListCues p tag take start s = .next t) : ActsOn [.out] s t :=
  State.running_acts step fun s => s.asRole_acts _ _ fun g => by
    split
    · exact g.reply_among _ _ _
    · exact .ite (fun _ => g.reply_among _ _ _) (fun _ =>
        .ite (fun _ => g.reply_among _ _ _) (fun _ => g.reply_among _ _ _))

theorem execListChunks_acts {p : PortNo} {tag : Byte} {form selector start : Nat}
    (step : execListChunks p tag form selector start s = .next t) : ActsOn [.out] s t :=
  State.running_acts step fun s => s.asRole_acts _ _ fun g => by
    split
    · exact .ite (fun _ => g.reply_among _ _ _) (fun _ => g.reply_among _ _ _)
    · split <;> exact g.reply_among _ _ _
    · exact .ite (fun _ => g.reply_among _ _ _) (fun _ => g.reply_among _ _ _)
    · exact g.reply_among _ _ _

theorem execGetLinks_acts {p : PortNo} {tag : Byte} (step : execGetLinks p tag s = .next t) : ActsOn [.out] s t :=
  State.running_acts step fun s => s.asRole_acts _ _ fun g => g.reply_among _ _ _

theorem execEnterSetup_acts {p : PortNo} {tag : Byte} (step : execEnterSetup p tag s = .next t) :
    ActsOn [.opState, .pools, .handoff, .out] s t :=
  State.running_acts step fun s => s.asRole_acts _ _ fun g => .ite (fun _ => g.reply_among _ _ _) (fun _ => by
    split
    · exact g.reply_among _ _ _
    · exact .seq g.clearWork_touches (.seq (ps := [.opState, .pools, .handoff, .out])
        (State.opState_touches g.clearWork .setup) (State.reply_touches _ _ _ _)))

theorem execLeaveSetup_acts {p : PortNo} {tag : Byte} (step : execLeaveSetup p tag s = .next t) :
    ActsOn [.opState, .chunks, .handoff, .out] s t :=
  State.running_acts step fun s => s.asRole_acts _ _ fun g => .ite
    (fun _ => .seq g.recompute_touches (.seq (ps := [.opState, .chunks, .handoff, .out])
      (State.opState_touches g.recompute .run) (State.reply_touches _ _ _ _))) (fun _ => g.reply_among _ _ _)

theorem execSetFilter_acts {p : PortNo} {tag : Byte}
    {index enabled kind first second target turnaround whole floor : Nat}
    (step : execSetFilter p tag index enabled kind first second target turnaround whole floor s = .next t) :
    ActsOn settingParts s t :=
  State.running_acts step fun s => s.asSetting_acts _ fun g => by
    split
    · split
      · exact .seq (g.settings_touches _ _ _ _ _ _) (State.replyClamped_touches _ _ _ _)
      · exact g.reply_among _ _ _
    · exact g.reply_among _ _ _

theorem execSetDefaultAction_acts {p : PortNo} {tag : Byte} {target turnaround whole floor : Nat}
    (step : execSetDefaultAction p tag target turnaround whole floor s = .next t) : ActsOn settingParts s t :=
  State.running_acts step fun s => s.asSetting_acts _ fun g => by
    split
    · exact .seq (g.settings_touches _ _ _ _ _ _) (State.replyClamped_touches _ _ _ _)
    · exact g.reply_among _ _ _

theorem execSetPauseThreshold_acts {p : PortNo} {tag : Byte} {n : Nat}
    (step : execSetPauseThreshold p tag n s = .next t) : ActsOn settingParts s t :=
  State.running_acts step fun s => s.asSetting_acts _ fun g =>
    .seq (g.settings_touches _ _ _ _ _ _) (State.replyClamped_touches _ _ _ _)

theorem execSetOfferTimeout_acts {p : PortNo} {tag : Byte} {n : Nat}
    (step : execSetOfferTimeout p tag n s = .next t) : ActsOn settingParts s t :=
  State.running_acts step fun s => s.asSetting_acts _ fun g =>
    .seq (g.settings_touches _ _ _ _ _ _) (State.replyClamped_touches _ _ _ _)

theorem execSetGrace_acts {p : PortNo} {tag : Byte} {n : Nat}
    (step : execSetGrace p tag n s = .next t) : ActsOn settingParts s t :=
  State.running_acts step fun s => s.asSetting_acts _ fun g =>
    .seq (g.settings_touches _ _ _ _ _ _) (State.replyClamped_touches _ _ _ _)

theorem execSetDropTime_acts {p : PortNo} {tag : Byte} {n : Nat}
    (step : execSetDropTime p tag n s = .next t) : ActsOn settingParts s t :=
  State.running_acts step fun s => s.asSetting_acts _ fun g =>
    .seq (g.settings_touches _ _ _ _ _ _) (State.replyClamped_touches _ _ _ _)

theorem execSetWatermark_acts {p : PortNo} {tag : Byte} {blocks : Nat}
    (step : execSetWatermark p tag blocks s = .next t) : ActsOn [.watermark, .lowFlag, .out] s t :=
  State.running_acts step fun s => s.asSetting_acts _ fun g =>
    .seq (g.watermark_touches _) (.seq (ps := [.lowFlag, .out]) (State.reply_touches _ _ _ _)
      (State.testLow_touches _))

theorem execSetPoolSplit_acts {p : PortNo} {tag : Byte} {pool length window leadIn ratio : Nat}
    (step : execSetPoolSplit p tag pool length window leadIn ratio s = .next t) :
    ActsOn [.pools, .parameters, .out] s t :=
  State.running_acts step fun s => s.asSetting_acts _ fun g => by
    split
    · exact g.reply_among _ _ _
    · exact .seq (g.pools_touches' _) (State.reply_touches _ _ _ _)

theorem execSetPoolMode_acts {p : PortNo} {tag : Byte} {pool discipline reoffer : Nat}
    (step : execSetPoolMode p tag pool discipline reoffer s = .next t) :
    ActsOn [.pools, .parameters, .out] s t :=
  State.running_acts step fun s => s.asSetting_acts _ fun g => by
    split
    · exact .seq (g.pools_touches' _) (State.reply_touches _ _ _ _)
    · exact g.reply_among _ _ _

theorem execGetFilter_acts {p : PortNo} {tag : Byte} {index : Nat} (step : execGetFilter p tag index s = .next t) :
    ActsOn [.out] s t :=
  State.running_acts step fun s => s.asRole_acts _ _ fun g => by split <;> exact g.reply_among _ _ _

theorem execGetIntake_acts {p : PortNo} {tag : Byte} (step : execGetIntake p tag s = .next t) :
    ActsOn [.out] s t :=
  State.running_acts step fun s => s.asRole_acts _ _ fun g => g.reply_among _ _ _

theorem execGetPool_acts {p : PortNo} {tag : Byte} {pool : Nat} (step : execGetPool p tag pool s = .next t) :
    ActsOn [.out] s t :=
  State.running_acts step fun s => s.asRole_acts _ _ fun g => by split <;> exact g.reply_among _ _ _

theorem execGetHandoff_acts {p : PortNo} {tag : Byte} (step : execGetHandoff p tag s = .next t) :
    ActsOn [.out] s t :=
  State.running_acts step fun s => s.asRole_acts _ _ fun g => g.reply_among _ _ _

/-! ### Timers and tenures -/

theorem execQuietTimerExpiry_acts {p : PortNo} (step : execQuietTimerExpiry p s = .next t) : Touches lossParts s t :=
  State.running_touches step fun s => .ite (fun _ => .seq (s.updLink_touches _ _) (State.quietEffects_touches _ _))
    (fun _ => .refl _ _)

theorem execDropTimerExpiry_acts {p : PortNo} (step : execDropTimerExpiry p s = .next t) : Touches lossParts s t :=
  State.running_touches step fun s => .ite (fun _ => .seq (s.loseLink_touches _) (State.updLink_touches _ _ _))
    (fun _ => .refl _ _)

theorem execSendTimerExpiry_acts {p : PortNo} (step : execSendTimerExpiry p s = .next t) : Touches [.out] s t :=
  State.running_touches step fun _ => .ite (fun _ => State.emit_touches rfl) (fun _ => .refl _ _)

theorem execOfficeClockTick_acts (step : execOfficeClockTick s = .next t) : Touches [.clock] s t :=
  State.running_touches step fun _ => State.clock_touches _ _

theorem execWriteTenureComplete_acts (step : execWriteTenureComplete s = .next t) :
    Touches [.store, .directory, .intake, .arbiter] s t :=
  State.running_touches step fun s => by
    split
    · exact .seq (s.completeWrite_touches _) (.seq (ps := [.arbiter]) (State.endTenure_touches _)
        (State.grant_touches _))
    · exact .refl _ _

/-- What a completed read touches. -/
abbrev readParts : List Part := damageParts ++ [.ctx, .arbiter, .speech]

theorem execReadTenureComplete_acts {upsets : List Upset} {first : Bool}
    (step : execReadTenureComplete upsets first s = .next t) : Touches readParts s t :=
  State.running_touches step fun s => by
    split
    · exact Touches.trans ((s.readContent_touches _ _ _ _ _ _ _).mono rfl) (.ite (ps := readParts)
        (fun _ => .seq (State.endTenure_touches _) (State.grant_touches _))
        (fun _ => .ite
          (fun _ => .seq (State.deliver_touches _ _ _ _) (.seq (ps := readParts) (State.endTenure_touches _)
            (State.grant_touches _)))
          (fun _ => .seq (State.endTenure_touches _) (.seq (ps := readParts) (State.grant_touches _)
            (State.deliver_touches _ _ _ _)))))
    · exact .refl _ _

/-- What a release step touches. -/
abbrev stepParts : List Part :=
  [.takes, .takeKeys, .chains, .cues, .directory, .store, .free, .arbiter, .lowFlag, .out]

theorem execReleaseStepComplete_acts (step : execReleaseStepComplete s = .next t) : Touches stepParts s t :=
  State.running_touches step fun s => by
    have ended (u : State) : Touches stepParts u u.endTenure.grant :=
      .seq u.endTenure_touches (State.grant_touches _)
    split
    · split
      · have released (last : Prop) [Decidable last] (take : Nat) (u : State) : Touches stepParts u
            (if last then u.completeRelease take else u) :=
          .ite (fun _ => (u.completeRelease_touches _).mono rfl) (fun _ => .refl _ _)
        exact .seq (s.freeHead_touches _ _) (.seq (ps := stepParts) (released _ _ _) (ended _))
      · exact ended s
    · exact .refl _ _

end

/-! ### Every command -/

/-- The parts a command touches beyond those of its good frame. -/
def partsOf : Instr → List Part
  | .powerOnReset | .hardReset | .resetPinAsserted | .frameIgnoredFaulted _ => []
  | .carrierArrives _ => [.link]
  | .carrierLost _ | .lineBreak _ | .badFrame _ | .detach _ _ | .quietTimerExpiry _ | .dropTimerExpiry _ => lossParts
  | .idle _ | .commandUnknown _ _ _ | .getClearance _ _ _ | .status _ _ | .listTakes _ _ _ | .listCues _ _ _ _
  | .listChunks _ _ _ _ _ | .getLinks _ _ | .getFilter _ _ _ | .getIntake _ _ | .getPool _ _ _ | .getHandoff _ _
  | .sendTimerExpiry _ => [.out]
  | .audioSpeech _ _ | .audioSilence _ _ => audioParts
  | .attach _ _ _ _ _ => [.link, .intake, .out]
  | .setMask _ _ _ => [.link, .out]
  | .openTake _ _ _ => [.takes, .takeKeys, .chains, .cues, .takeIdCounter, .intake, .out]
  | .openTakeContinue _ _ _ _ => [.takes, .intake, .directory, .arbiter, .out]
  | .pause _ _ => .intake :: cueParts
  | .resume _ _ => [.takes, .cues, .cueArrival, .out]
  | .closeTake _ _ | .closeTakeDesk _ _ _ => closeParts
  | .mark _ _ _ _ | .offRecordBegin _ _ | .offRecordEnd _ _ | .restrictBegin _ _ _ | .restrictEnd _ _ => cueParts
  | .readbackBegin _ _ _ _ => [.link, .intake, .ctx, .damage, .takes, .cues, .cueArrival, .out]
  | .readbackEnd _ _ => .out :: readerParts
  | .play _ _ | .playFrameDue _ => playParts
  | .stop _ _ => [.ctx, .arbiter, .out]
  | .stepBack _ _ _ | .stepAhead _ _ _ | .seek _ _ _ | .seekCue _ _ _ _ | .jumpTime _ _ _ | .jumpCue _ _ _
  | .backtrack _ _ => moveParts
  | .ready _ _ _ | .decline _ _ _ _ | .repool _ _ _ _ _ | .offerTimerExpiry _ => offerParts
  | .unready _ _ => [.pools, .out]
  | .peek _ _ _ => [.handoff, .out]
  | .claim _ _ | .accept _ _ _ _ | .resumeHold _ _ => claimParts
  | .finish _ _ _ => finishParts
  | .yield _ _ => yieldParts
  | .restrictSpan _ _ _ _ _ _ => .ctx :: cueParts
  | .releaseTake _ _ _ => releaseParts
  | .exportBegin _ _ _ => exportBeginParts
  | .exportStop _ _ => [.ctx, .takes, .arbiter, .out]
  | .recall _ _ _ _ | .graceTimerExpiry _ _ => recallParts
  | .fetchLog _ _ _ => [.log, .overrun, .out]
  | .setClock _ _ _ => [.clock, .out]
  | .setClearance _ _ _ _ => clearanceParts
  | .enterSetup _ _ => [.opState, .pools, .handoff, .out]
  | .leaveSetup _ _ => [.opState, .chunks, .handoff, .out]
  | .setFilter _ _ _ _ _ _ _ _ _ _ _ | .setDefaultAction _ _ _ _ _ _ | .setPauseThreshold _ _ _
  | .setOfferTimeout _ _ _ | .setGrace _ _ _ | .setDropTime _ _ _ => settingParts
  | .setWatermark _ _ _ => [.watermark, .lowFlag, .out]
  | .setPoolSplit _ _ _ _ _ _ _ | .setPoolMode _ _ _ _ _ => [.pools, .parameters, .out]
  | .officeClockTick => [.clock]
  | .writeTenureComplete => [.store, .directory, .intake, .arbiter]
  | .readTenureComplete _ _ => readParts
  | .releaseStepComplete => stepParts

/-- The three resets (R165). -/
def isReset : Instr → Bool
  | .powerOnReset | .hardReset | .resetPinAsserted => true
  | _ => false

/-- Every command but a reset acts from its frame's arrival and touches only its own parts. -/
theorem exec_acts {c : Instr} {s t : State} (no_reset : isReset c = false) (step : exec c s = .next t) :
    ActsOn (partsOf c) s t := by
  cases c with
  | powerOnReset | hardReset | resetPinAsserted => simp [isReset] at no_reset
  | carrierArrives => exact Follows.here (execCarrierArrives_acts step)
  | carrierLost => exact Follows.here (execCarrierLost_acts step)
  | lineBreak => exact Follows.here (execLineBreak_acts step)
  | badFrame => exact Follows.here (execBadFrame_acts step)
  | frameIgnoredFaulted p => exact Follows.here (execFrameIgnoredFaulted_acts (p := p) step)
  | idle => exact execIdle_acts step
  | audioSpeech => exact execAudioSpeech_acts step
  | audioSilence => exact execAudioSilence_acts step
  | commandUnknown => exact execCommandUnknown_acts step
  | attach => exact execAttach_acts step
  | detach => exact execDetach_acts step
  | setMask => exact execSetMask_acts step
  | openTake => exact execOpenTake_acts step
  | openTakeContinue _ _ matter => exact execOpenTakeContinue_acts (matter := matter) step
  | pause => exact execPause_acts step
  | resume => exact execResume_acts step
  | closeTake => exact execCloseTake_acts step
  | mark => exact execMark_acts step
  | offRecordBegin => exact execOffRecordBegin_acts step
  | offRecordEnd => exact execOffRecordEnd_acts step
  | restrictBegin => exact execRestrictBegin_acts step
  | restrictEnd => exact execRestrictEnd_acts step
  | readbackBegin => exact execReadbackBegin_acts step
  | readbackEnd => exact execReadbackEnd_acts step
  | play => exact execPlay_acts step
  | stop => exact execStop_acts step
  | stepBack => exact execStepBack_acts step
  | stepAhead => exact execStepAhead_acts step
  | seek => exact execSeek_acts step
  | seekCue => exact execSeekCue_acts step
  | jumpTime => exact execJumpTime_acts step
  | jumpCue => exact execJumpCue_acts step
  | backtrack => exact execBacktrack_acts step
  | ready => exact execReady_acts step
  | unready => exact execUnready_acts step
  | peek => exact execPeek_acts step
  | claim => exact execClaim_acts step
  | accept => exact execAccept_acts step
  | decline => exact execDecline_acts step
  | finish => exact execFinish_acts step
  | yield => exact execYield_acts step
  | resumeHold => exact execResumeHold_acts step
  | closeTakeDesk => exact execCloseTakeDesk_acts step
  | restrictSpan => exact execRestrictSpan_acts step
  | releaseTake => exact execReleaseTake_acts step
  | exportBegin => exact execExportBegin_acts step
  | exportStop => exact execExportStop_acts step
  | repool => exact execRepool_acts step
  | fetchLog => exact execFetchLog_acts step
  | setClock => exact execSetClock_acts step
  | setClearance => exact execSetClearance_acts step
  | getClearance => exact execGetClearance_acts step
  | status => exact execStatus_acts step
  | listTakes => exact execListTakes_acts step
  | listCues => exact execListCues_acts step
  | listChunks => exact execListChunks_acts step
  | getLinks => exact execGetLinks_acts step
  | enterSetup => exact execEnterSetup_acts step
  | leaveSetup => exact execLeaveSetup_acts step
  | setFilter => exact execSetFilter_acts step
  | setDefaultAction => exact execSetDefaultAction_acts step
  | setPauseThreshold => exact execSetPauseThreshold_acts step
  | setWatermark => exact execSetWatermark_acts step
  | setPoolSplit => exact execSetPoolSplit_acts step
  | setPoolMode => exact execSetPoolMode_acts step
  | setOfferTimeout => exact execSetOfferTimeout_acts step
  | setGrace => exact execSetGrace_acts step
  | setDropTime => exact execSetDropTime_acts step
  | getFilter => exact execGetFilter_acts step
  | getIntake => exact execGetIntake_acts step
  | getPool => exact execGetPool_acts step
  | getHandoff => exact execGetHandoff_acts step
  | quietTimerExpiry => exact Follows.here (execQuietTimerExpiry_acts step)
  | dropTimerExpiry => exact Follows.here (execDropTimerExpiry_acts step)
  | sendTimerExpiry => exact Follows.here (execSendTimerExpiry_acts step)
  | offerTimerExpiry => exact Follows.here (execOfferTimerExpiry_acts step)
  | graceTimerExpiry => exact Follows.here (execGraceTimerExpiry_acts step)
  | officeClockTick => exact Follows.here (execOfficeClockTick_acts step)
  | playFrameDue => exact Follows.here (execPlayFrameDue_acts step)
  | writeTenureComplete => exact Follows.here (execWriteTenureComplete_acts step)
  | readTenureComplete => exact Follows.here (execReadTenureComplete_acts step)
  | releaseStepComplete => exact Follows.here (execReleaseStepComplete_acts step)
  -- RECALL is what is left: its name is a keyword here, so no alternative can name it
  | _ => exact execRecall_acts step

/-- What every command but a reset may touch, its good frame included. -/
theorem exec_touches {c : Instr} {s t : State} (no_reset : isReset c = false) (step : exec c s = .next t) :
    Touches (.link :: .out :: partsOf c) s t := (exec_acts no_reset step).touches

end Sys2Proof.Machine

/-!
PROOFS. The take table (1.1): where a take is found, what a change of one take does to the number of blocks on all
chains, the id of a new take (R2), and the law of the blocks (R44).
-/

namespace Sys2Proof.Machine

set_option Elab.async false

/-! ### Takes found -/

theorem State.mem_of_take? {s : State} {n : Nat} {t : Take} (found : s.take? n = some t) :
    ∃ slot, (slot, t) ∈ s.takes := by
  obtain ⟨e, here, rfl⟩ := Option.map_eq_some_iff.1 found
  exact ⟨e.1, List.mem_of_find?_eq_some here⟩

/-- A record is found the same where the take table stands. -/
theorem Touches.take? {ps : List Part} {s t : State} (touched : Touches ps s t)
    (outside : ps.contains .takes = false := by rfl) (n : Nat) : t.take? n = s.take? n := by
  have takes : t.takes = s.takes := touched.get .takes outside
  simp only [State.take?, takes]

theorem State.mem_of_linkTake {s : State} {p : PortNo} {t : Take} (found : s.linkTake p = some t) :
    ∃ slot, (slot, t) ∈ s.takes := by
  obtain ⟨e, here, rfl⟩ := Option.map_eq_some_iff.1 found
  exact ⟨e.1, List.mem_of_find?_eq_some here⟩

/-- The take of a link is open and has the port as its recorder port (R1). -/
theorem State.linkTake_spec {s : State} {p : PortNo} {t : Take} (found : s.linkTake p = some t) :
    t.recPort = some p ∧ t.isOpen = true := by
  obtain ⟨e, here, rfl⟩ := Option.map_eq_some_iff.1 found
  simpa using List.find?_some here

theorem State.mem_takeIds {s : State} {slot : Nat} {t : Take} (listed : (slot, t) ∈ s.takes) : t.id ∈ s.takeIds :=
  List.mem_map.2 ⟨_, listed, rfl⟩

/-- With distinct ids the record that has an id is the one found. -/
theorem State.take?_of_mem {s : State} {slot : Nat} {t : Take} (ids : s.takeIds.Nodup) (listed : (slot, t) ∈ s.takes) :
    s.take? t.id = some t := by
  obtain ⟨e, here⟩ := Option.isSome_iff_exists.1 (List.find?_isSome (p := fun e : Nat × Take => decide (e.2.id = t.id)).2
    ⟨_, listed, by simp⟩)
  have same : e = (slot, t) := List.inj_on_of_nodup_map ids (List.mem_of_find?_eq_some here) listed
    (by simpa using List.find?_some here)
  rw [State.take?, here, same]; rfl

theorem State.take?_of_linkTake {s : State} {p : PortNo} {t : Take} (ids : s.takeIds.Nodup)
    (found : s.linkTake p = some t) : s.take? t.id = some t := by
  obtain ⟨slot, listed⟩ := State.mem_of_linkTake found
  exact State.take?_of_mem ids listed

theorem State.take?_of_mem_takeIds {s : State} {n : Nat} (listed : n ∈ s.takeIds) : ∃ t, s.take? n = some t := by
  obtain ⟨e, here, rfl⟩ := List.mem_map.1 listed
  obtain ⟨d, found⟩ := Option.isSome_iff_exists.1 (List.find?_isSome (p := fun d : Nat × Take => decide (d.2.id = e.2.id)).2
    ⟨_, here, by simp⟩)
  exact ⟨d.2, by rw [State.take?, found]; rfl⟩

/-! ### Blocks on chains -/

/-- Blocks on the chains of a list of take records. -/
def chainedIn (l : Table Take) : Nat := (l.map (fun e => e.2.chain.length)).sum

theorem State.chained_eq (s : State) : s.chained = chainedIn s.takes := rfl

/-- A change of the one take that has an id changes the number of chained blocks by what it does to its chain. -/
theorem chainedIn_update {l : Table Take} (ids : (l.map (·.2.id)).Nodup) {e : Nat × Take} (listed : e ∈ l)
    (f : Take → Take) : chainedIn (l.map fun d => if d.2.id = e.2.id then (d.1, f d.2) else d) + e.2.chain.length =
      chainedIn l + (f e.2).chain.length := by
  induction l with
  | nil => simp at listed
  | cons d l ih =>
    obtain ⟨fresh, ids⟩ := List.nodup_cons.1 ids
    rcases List.mem_cons.1 listed with rfl | listed
    · have others : l.map (fun d => if d.2.id = e.2.id then (d.1, f d.2) else d) = l := by
        have unchanged : ∀ d ∈ l, (if d.2.id = e.2.id then (d.1, f d.2) else d) = id d :=
          fun d here => if_neg fun same => fresh (List.mem_map.2 ⟨d, here, same⟩)
        rw [List.map_congr_left unchanged, List.map_id]
      simp only [List.map_cons, if_true, others]
      simp only [chainedIn, List.map_cons, List.sum_cons]
      omega
    · have other : d.2.id ≠ e.2.id := fun same => fresh (List.mem_map.2 ⟨e, listed, same.symm⟩)
      have rest := ih ids listed
      simp only [List.map_cons, if_neg other]
      simp only [chainedIn, List.map_cons, List.sum_cons] at rest ⊢
      omega

/-- A record removed takes its chain with it. -/
theorem chainedIn_remove {l : Table Take} (ids : (l.map (·.2.id)).Nodup) {e : Nat × Take} (listed : e ∈ l) :
    chainedIn (l.filter fun d => d.2.id ≠ e.2.id) + e.2.chain.length = chainedIn l := by
  induction l with
  | nil => simp at listed
  | cons d l ih =>
    obtain ⟨fresh, ids⟩ := List.nodup_cons.1 ids
    rcases List.mem_cons.1 listed with rfl | listed
    · have others : l.filter (fun d => d.2.id ≠ e.2.id) = l := by
        refine List.filter_eq_self.2 fun d here => decide_eq_true fun same => fresh ?_
        exact List.mem_map.2 ⟨d, here, same⟩
      rw [List.filter_cons_of_neg (by simp), others]
      simp only [chainedIn, List.map_cons, List.sum_cons]
      omega
    · have other : d.2.id ≠ e.2.id := fun same => fresh (List.mem_map.2 ⟨e, listed, same.symm⟩)
      have rest := ih ids listed
      rw [List.filter_cons_of_pos (by simpa using other)]
      simp only [chainedIn, List.map_cons, List.sum_cons] at rest ⊢
      omega

theorem State.chained_updTake {s : State} {n : Nat} {t : Take} (ids : s.takeIds.Nodup) (found : s.take? n = some t)
    (f : Take → Take) : (s.updTake n f).chained + t.chain.length = s.chained + (f t).chain.length := by
  obtain ⟨slot, listed⟩ := State.mem_of_take? found
  rw [← State.take?_id found]
  exact chainedIn_update ids listed f

/-! ### The id of a new take -/

/-- The counter after `k` steps, passing from 65,535 to 1 (R2). -/
theorem bumpId_iterate {n : Nat} (low : 1 ≤ n) (high : n ≤ 65535) (k : Nat) :
    bumpId^[k] n = (n - 1 + k) % 65535 + 1 := by
  induction k with
  | zero => simp only [Function.iterate_zero, id]; omega
  | succ k ih =>
    rw [Function.iterate_succ_apply', ih, bumpId]
    split <;> omega

theorem freeId_spec (used : List Nat) (fuel n : Nat) : ∃ k ≤ fuel, freeId used fuel n = bumpId^[k] n ∧
    (∀ j < k, bumpId^[j] n ∈ used) ∧ (k = fuel ∨ freeId used fuel n ∉ used) := by
  induction fuel generalizing n with
  | zero => exact ⟨0, le_rfl, rfl, by simp, .inl rfl⟩
  | succ fuel ih =>
    by_cases taken : n ∈ used
    · obtain ⟨k, k_le, is, passed, free⟩ := ih (bumpId n)
      have next : freeId used (fuel + 1) n = freeId used fuel (bumpId n) := by simp [freeId, taken]
      refine ⟨k + 1, by omega, by rw [next, is]; rfl, fun j j_lt => ?_, by rw [next]; exact free.imp_left (by omega)⟩
      cases j with
      | zero => exact taken
      | succ j => exact passed j (by omega)
    · have here : freeId used (fuel + 1) n = n := by simp [freeId, taken]
      exact ⟨0, by omega, here, by simp, .inr (by rwa [here])⟩

/-- Sixty-four steps of the counter meet an id that fewer than 64 records leave unused. -/
theorem exists_unused_step {used : List Nat} (few : used.length ≤ 63) {n : Nat} (low : 1 ≤ n) (high : n ≤ 65535) :
    ¬ ∀ j < 64, bumpId^[j] n ∈ used := by
  intro all_used
  have distinct : ((List.range 64).map fun j => bumpId^[j] n).Nodup := by
    refine List.Nodup.map_on (fun i i_lt j j_lt same => ?_) List.nodup_range
    rw [bumpId_iterate low high, bumpId_iterate low high] at same
    simp only [List.mem_range] at i_lt j_lt
    omega
  have subset : ((List.range 64).map fun j => bumpId^[j] n) ⊆ used := by
    intro m m_in
    obtain ⟨j, j_in, rfl⟩ := List.mem_map.1 m_in
    exact all_used j (List.mem_range.1 j_in)
  have length := (distinct.subperm subset).length_le
  simp only [List.length_map, List.length_range] at length
  omega

/-- Settles O19: the search stops within its 64 tests, since at most 63 ids are in use. -/
theorem takeIdIsFirstUnused : Obligations.TakeIdIsFirstUnused := by
  intro s low high few
  obtain ⟨k, k_le, is, passed, free⟩ := freeId_spec s.takeIds 64 s.takeIdCounter
  have few_ids : s.takeIds.length ≤ 63 := by simpa [State.takeIds] using few
  have k_ne : k ≠ 64 := by
    rintro rfl
    exact exists_unused_step few_ids low high passed
  have range := bumpId_iterate low high k
  change s.nextTakeId = _ at is
  refine ⟨k, by omega, is, free.resolve_left k_ne, ?_, ?_, passed⟩ <;> omega

end Sys2Proof.Machine

/-!
PROOFS. The law of the blocks (R44): which commands move a block or a take record, and that each of them keeps the
number of blocks free and chained.
-/

namespace Sys2Proof.Machine

set_option Elab.async false

/-! ### The parts the law is about -/

theorem State.chained_of_chains {s t : State} (same : t.chains = s.chains) : t.chained = s.chained := by
  have lengths (u : State) : u.chained = (u.chains.map fun e => e.2.length).sum := by
    simp [State.chained, State.chains, Function.comp_def]
  rw [lengths, lengths, same]

theorem State.takeIds_of_takeKeys {s t : State} (same : t.takeKeys = s.takeKeys) : t.takeIds = s.takeIds := by
  have ids (u : State) : u.takeIds = u.takeKeys.map (·.2) := by simp [State.takeIds, State.takeKeys]
  rw [ids, ids, same]

theorem State.slots_of_takeKeys {s t : State} (same : t.takeKeys = s.takeKeys) :
    t.takes.map (·.1) = s.takes.map (·.1) := by
  have slots (u : State) : u.takes.map (·.1) = u.takeKeys.map (·.1) := by simp [State.takeKeys]
  rw [slots, slots, same]

/-- Slots below 64 in rising order, read off the slots alone. -/
theorem slotsLawful_iff {l : Table Take} : (l.wf ∧ ∀ e ∈ l, e.1 < Config.takeSlots) ↔
    (l.map (·.1)).Pairwise (· < ·) ∧ ∀ n ∈ l.map (·.1), n < Config.takeSlots := by
  simp [Table.wf, List.pairwise_map]

/-- Where the keys of the take table and the counter stand, the law is that of the number of blocks. -/
theorem State.blocksKept.of_sum {s t : State} {ps : List Part} (kept : s.blocksKept) (touched : Touches ps s t)
    (sum : t.free.count + t.chained = s.free.count + s.chained)
    (outside : [Part.takeKeys, .takeIdCounter].all (fun x => !ps.contains x) = true := by rfl) : t.blocksKept := by
  have part (x : Part) (law : x ∈ [Part.takeKeys, .takeIdCounter]) : x.same s t :=
    touched.get x (by simpa using List.all_eq_true.1 outside x law)
  have keys : t.takeKeys = s.takeKeys := part .takeKeys (by simp)
  have counter : t.takeIdCounter = s.takeIdCounter := part .takeIdCounter (by simp)
  have ids := State.takeIds_of_takeKeys keys
  refine ⟨sum.trans kept.all, ?_, ids ▸ kept.ids, ids ▸ kept.range, counter ▸ kept.counter⟩
  rw [slotsLawful_iff, State.slots_of_takeKeys keys, ← slotsLawful_iff]
  exact kept.slots

/-- The parts the law of the blocks reads. -/
abbrev blockLawParts : List Part := [.takeKeys, .takeIdCounter, .chains, .free]

theorem State.blocksKept.reads : ReadsOnly blockLawParts State.blocksKept := by
  intro s t ps kept touched outside
  have chains : t.chains = s.chains := touched.same_of_reads outside (x := .chains) (by simp)
  have free : t.free = s.free := touched.same_of_reads outside (x := .free) (by simp)
  exact kept.of_sum touched (by rw [State.chained_of_chains chains, free])
    (List.all_eq_true.2 fun x law => List.all_eq_true.1 outside x (by simp at law ⊢; tauto))

theorem State.blocksKept.of_touches {s t : State} {ps : List Part} (kept : s.blocksKept) (touched : Touches ps s t)
    (outside : blockLawParts.all (fun x => !ps.contains x) = true := by rfl) : t.blocksKept :=
  reads kept touched outside

/-! ### A new take record (R1, R2) -/

/-- A write at a key that is not listed adds one entry. -/
theorem TableLaws.put_perm {α : Type} {t : Table α} {k : Nat} (v : α) (fresh : ∀ e ∈ t, e.1 ≠ k) :
    (t.put k v).Perm ((k, v) :: t) := by
  induction t with
  | nil => exact .refl _
  | cons d t ih =>
    have other : k ≠ d.1 := (fresh d (List.mem_cons_self ..)).symm
    simp only [Table.put]
    split
    · exact .refl _
    · show ((d.1, d.2) :: Table.put t k v).Perm _
      exact (List.Perm.cons _ (ih fun e here => fresh e (List.mem_cons_of_mem _ here))).trans (.swap ..)

/-- With a slot free at most 63 records are in use. -/
theorem State.takes_length_of_freeSlot {s : State} {slot : Nat}
    (slots : s.takes.wf ∧ ∀ e ∈ s.takes, e.1 < Config.takeSlots) (free : s.freeSlot = some slot) :
    s.takes.length ≤ 63 := by
  obtain ⟨unused, -, slot_lt, -⟩ := TableLaws.firstFree_spec free
  obtain ⟨rising, below⟩ := slotsLawful_iff.1 slots
  have distinct : (slot :: s.takes.map (·.1)).Nodup := List.nodup_cons.2 ⟨unused, rising.imp fun lt => ne_of_lt lt⟩
  have subset : slot :: s.takes.map (·.1) ⊆ List.range Config.takeSlots := by
    intro n n_in
    rcases List.mem_cons.1 n_in with rfl | n_in
    · exact List.mem_range.2 (by omega)
    · exact List.mem_range.2 (below n n_in)
  have length := (distinct.subperm subset).length_le
  simp only [List.length_cons, List.length_map, List.length_range, Config.takeSlots] at length
  omega

theorem State.blocksKept.openNew {s : State} (kept : s.blocksKept) (c : Cmd) (matter : Nat) :
    (s.openNew c matter).blocksKept := by
  unfold State.openNew
  split
  · exact kept.of_touches (State.reply_touches _ _ _ _)
  · next slot free =>
    obtain ⟨unused, -, slot_lt, -⟩ := TableLaws.firstFree_spec free
    have fresh : ∀ e ∈ s.takes, e.1 ≠ slot := fun e here same => unused (List.mem_map.2 ⟨e, here, same⟩)
    obtain ⟨k, -, -, new, low, high, -⟩ := takeIdIsFirstUnused s kept.counter.1 kept.counter.2
      (State.takes_length_of_freeSlot kept.slots free)
    have entry := TableLaws.put_perm (s.openedTake c.port matter) fresh
    have opened : State.blocksKept { s with
        takes := Table.put s.takes slot (s.openedTake c.port matter), takeIdCounter := bumpId s.nextTakeId } := by
      refine ⟨?_, ⟨TableLaws.put_wf kept.slots.1 _ _, fun e here => ?_⟩, ?_, fun n n_in => ?_, ?_⟩
      · have sum := (entry.map fun e => e.2.chain.length).sum_eq
        have all := kept.all
        simp only [State.chained] at all ⊢
        rw [sum]
        simpa [State.openedTake] using all
      · rcases TableLaws.mem_put here with rfl | here
        · simpa using slot_lt
        · exact kept.slots.2 e here
      · have distinct : (((slot, s.openedTake c.port matter) :: s.takes).map fun e => e.2.id).Nodup :=
          List.nodup_cons.2 ⟨new, kept.ids⟩
        exact ((entry.map fun e => e.2.id).nodup_iff).2 distinct
      · rcases List.mem_cons.1 ((entry.map fun e => e.2.id).mem_iff.1 n_in) with rfl | n_in
        · exact ⟨low, high⟩
        · exact kept.range n n_in
      · show 1 ≤ bumpId _ ∧ bumpId _ ≤ 65535
        rw [bumpId]; split <;> omega
    exact opened.of_touches (.seq (ps := [.intake, .out]) (State.setIntake_touches _ _ _) (State.reply_touches _ _ _ _))

/-! ### A block allocated (R45) -/

theorem State.blocksKept.allocate {s : State} (kept : s.blocksKept) (p : PortNo) (k : Bool) {take : Nat}
    (owned : take ∈ s.takeIds) (start : Nat) (r : Rec) : (s.allocate p k take start r).blocksKept := by
  refine kept.of_sum (s.allocate_touches p k take start r) ?_
  unfold State.allocate
  split
  · rfl
  · next b rest popped =>
    obtain ⟨t, found⟩ := State.take?_of_mem_takeIds owned
    have count := TableLaws.freeList_pop_count popped
    have chained := State.chained_updTake kept.ids found fun t => { t with chain := t.chain ++ [(b, start)] }
    simp only [List.length_append, List.length_singleton] at chained
    have free (u : State) : u.testLow.free = u.free := u.testLow_touches.get .free rfl
    have chains (u : State) : u.testLow.chained = u.chained :=
      State.chained_of_chains (u.testLow_touches.get .chains rfl)
    have grown (u : State) (takes : u.takes = s.takes) (f : Take → Take) :
        (u.updTake take f).chained = (s.updTake take f).chained := by
      simp only [State.chained, State.takes_updTake, takes]
    dsimp only
    rw [free, chains, grown _ (by simp)]
    simp only [State.updTake_free, State.setBuf_free]
    omega

/-- A record that needs a block keeps the law, whether it obtains one or is lost. -/
theorem State.blocksKept.obtainOrLose {s : State} (kept : s.blocksKept) (p : PortNo) {t : Take}
    (owned : t.id ∈ s.takeIds) (r : Rec) : (s.obtainOrLose p t r).blocksKept := by
  unfold State.obtainOrLose
  split
  · exact kept.of_touches (s.loseFrame_touches _ _ _ _)
  · exact kept.of_touches (s.loseFrame_touches _ _ _ _)
  · exact (kept.allocate _ _ owned _ _).of_touches (State.closeGap_touches _ _ _ _)

theorem State.blocksKept.storeRecord {s : State} (kept : s.blocksKept) (p : PortNo) {t : Take}
    (owned : t.id ∈ s.takeIds) (r : Rec) : (s.storeRecord p t r).blocksKept := by
  unfold State.storeRecord
  split
  · exact kept.obtainOrLose _ owned _
  · next k _ =>
    split
    · split
      · exact kept.of_touches (State.setBuf_touches _ _ _ _)
      · have closed := s.closeBlock_touches p k
        exact (kept.of_touches closed).obtainOrLose _
          (State.takeIds_of_takeKeys (closed.get .takeKeys rfl) ▸ owned) _
    · exact kept.obtainOrLose _ owned _

theorem State.blocksKept.applyFrame {s : State} (kept : s.blocksKept) (p : PortNo) {t : Take}
    (owned : t.id ∈ s.takeIds) (r : Rec) : (s.applyFrame p t r).blocksKept := by
  unfold State.applyFrame
  split
  · exact kept.of_touches (.seq (ps := closeParts) (s.closeTake_touches t true) (State.notify_touches _ _ _))
  · have run := s.setIntake_touches p { s.intake p with run := nextRun (s.intake p).run t.endTime r }
    have stored := (kept.of_touches run).storeRecord p
      (State.takeIds_of_takeKeys (run.get .takeKeys rfl) ▸ owned) r
    exact stored.of_touches (.seq (ps := .cues :: .cueArrival :: .intake :: cutParts)
      (State.updTake_touches' _ _ _ (by intro _; rfl) (by intro _; rfl))
      (.seq (ps := .cues :: .cueArrival :: .intake :: cutParts) (State.attemptPause_touches _ _ _)
        (State.cutTest_touches _ _ _)))

theorem State.blocksKept.takeAudio {s : State} (kept : s.blocksKept) (p : PortNo) (r : Rec) :
    (s.takeAudio p r).blocksKept := by
  unfold State.takeAudio
  split
  · exact kept.of_touches (s.discardAudio_touches _ _)
  · next t found =>
    obtain ⟨slot, listed⟩ := State.mem_of_linkTake found
    split
    · exact kept.applyFrame p (State.mem_takeIds listed) r
    · exact kept.of_touches (s.discardAudio_touches _ _)

/-! ### A take released (R20, R21, R56) -/

/-- A record is freed when no block is left on its chain. -/
theorem State.blocksKept.completeRelease {s : State} (kept : s.blocksKept) {take : Nat} {t : Take}
    (found : s.take? take = some t) (empty : t.chain = []) : (s.completeRelease take).blocksKept := by
  obtain ⟨slot, listed⟩ := State.mem_of_take? found
  have chained := chainedIn_remove kept.ids listed
  simp only [State.take?_id found, empty, List.length_nil] at chained
  have freed : State.blocksKept { s with takes := s.takes.filter fun e => e.2.id ≠ take } := by
    have part : (s.takes.filter fun e => e.2.id ≠ take).Sublist s.takes := List.filter_sublist
    refine ⟨?_, ⟨kept.slots.1.sublist part, fun e here => kept.slots.2 e (part.subset here)⟩,
      kept.ids.sublist (part.map _), fun n n_in => kept.range n ((part.map _).subset n_in), kept.counter⟩
    have all := kept.all
    rw [State.chained_eq] at all ⊢
    simp only at chained ⊢
    omega
  exact freed.of_touches (State.notifyDesks_touches _ _)

theorem State.take?_freeHead_self {s : State} {take : Nat} {t : Take} (found : s.take? take = some t) (block : Nat) :
    (s.freeHead take block).take? take = some { t with chain := t.chain.tail } := by
  unfold State.freeHead
  rw [(State.testLow_touches _).take?]
  exact State.take?_updTake_self found (fun t => { t with chain := t.chain.tail }) fun _ => rfl

theorem State.blocksKept.freeHead {s : State} (kept : s.blocksKept) {take : Nat} {t : Take}
    (found : s.take? take = some t) (block : Nat) (held : t.chain ≠ []) : (s.freeHead take block).blocksKept := by
  refine kept.of_sum (s.freeHead_touches take block) ?_
  have chained := State.chained_updTake kept.ids found fun t => { t with chain := t.chain.tail }
  have length := List.length_pos_of_ne_nil held
  have count := TableLaws.freeList_push_count s.free block
  simp only [List.length_tail] at chained
  have free (u : State) : u.testLow.free = u.free := u.testLow_touches.get .free rfl
  have chains (u : State) : u.testLow.chained = u.chained :=
    State.chained_of_chains (u.testLow_touches.get .chains rfl)
  have freed (u : State) : State.chained { u with
      free := u.free.push block, directory := Table.drop u.directory block
      store := Table.drop u.store block } = u.chained := rfl
  simp only [State.freeHead, free, chains, freed]
  simp only [State.updTake_free]
  omega

/-! ### Every step -/

section
variable {s t : State}

theorem execOpenTake_blocksKept {p : PortNo} {tag : Byte} {matter : Nat} (step : execOpenTake p tag matter s = .next t) :
    s.blocksKept → t.blocksKept :=
  State.blocksKept.reads.follows <| State.running_acts step (refl := State.blocksKept.reads.allows.refl) fun s =>
    s.opening_acts _ (fun _ kept => kept.openNew _ _) State.blocksKept.reads.allows

theorem execAudioSpeech_blocksKept {p : PortNo} {coded : Coded} (step : execAudioSpeech p coded s = .next t) :
    s.blocksKept → t.blocksKept :=
  State.blocksKept.reads.follows <| State.running_acts step (refl := State.blocksKept.reads.allows.refl) fun s =>
    s.onFrame_acts p (refl := State.blocksKept.reads.allows.refl) fun g kept => by
      split
      · exact kept.takeAudio p _
      · exact kept

theorem execAudioSilence_blocksKept {p : PortNo} {n : Nat} (step : execAudioSilence p n s = .next t) :
    s.blocksKept → t.blocksKept :=
  State.blocksKept.reads.follows <| State.running_acts step (refl := State.blocksKept.reads.allows.refl) fun s =>
    s.onFrame_acts p (refl := State.blocksKept.reads.allows.refl) fun g kept => by
      split
      · exact kept.takeAudio p _
      · exact kept

theorem execReleaseTake_blocksKept {p : PortNo} {tag : Byte} {take : Nat}
    (step : execReleaseTake p tag take s = .next t) : s.blocksKept → t.blocksKept :=
  State.blocksKept.reads.follows <| State.running_acts step (refl := State.blocksKept.reads.allows.refl) fun s =>
    s.asRole_acts _ _ (allows := State.blocksKept.reads.allows) fun g kept => by
      split
      · exact State.blocksKept.reads.allows.reply _ _ _ _ kept
      · next u found =>
        split
        · exact State.blocksKept.reads.allows.reply _ _ _ _ kept
        · have marked : ((g.updTake take fun u => { u with state := .releasing }).ok
              { port := p, tag := tag, code := 0x42 } []).blocksKept :=
            State.blocksKept.reads.allows.reply _ _ _ _ (kept.of_touches (g.countTake_touches _ _))
          dsimp only
          split
          · next empty =>
            refine marked.completeRelease (t := { u with state := .releasing }) ?_ (List.isEmpty_iff.1 empty)
            rw [State.ok_eq, (State.reply_touches _ _ _ _).take?]
            exact State.take?_updTake_self found _ fun _ => rfl
          · exact marked.of_touches (State.requestRelease_touches _ _ _)

theorem execReleaseStepComplete_blocksKept (step : execReleaseStepComplete s = .next t) :
    s.blocksKept → t.blocksKept :=
  State.running_touches (Q := Keeps State.blocksKept) step (refl := State.blocksKept.reads.allows.refl) fun s kept => by
    have ended {u : State} (kept : u.blocksKept) : u.endTenure.grant.blocksKept :=
      (kept.of_touches u.endTenure_touches).of_touches (State.grant_touches _)
    split
    · next take _ =>
      split
      · next block _ rest chain =>
        obtain ⟨u, found, chain⟩ := Option.map_eq_some_iff.1 chain
        have freed := kept.freeHead found block (by simp [chain])
        dsimp only
        split
        · next empty =>
          refine ended (freed.completeRelease (t := { u with chain := u.chain.tail }) ?_ ?_)
          · exact State.take?_freeHead_self found _
          · simpa [chain] using empty
        · exact ended freed
      · exact ended kept
    · exact kept

/-- A part in reset, or with other commands waiting, keeps the law where the part itself does. -/
theorem State.blocksKept.queue {s : State} (kept : s.blocksKept) (rest : List Instr) (held : Bool) :
    State.blocksKept { s with pending := rest, resetHeld := held } :=
  ⟨kept.all, kept.slots, kept.ids, kept.range, kept.counter⟩

theorem State.reset_blocksKept : State.reset.blocksKept := by
  refine ⟨by decide, ⟨by simp [State.reset, Table.wf], by simp [State.reset]⟩, ?_, ?_, by decide⟩ <;>
    simp [State.takeIds, State.reset]

theorem exec_blocksKept {c : Instr} (kept : s.blocksKept) (step : exec c s = .next t) : t.blocksKept := by
  by_cases reset : isReset c
  · have reset_to (held : Bool) : (s.resetTo held).blocksKept := State.reset_blocksKept.queue _ _
    cases c <;> simp [isReset] at reset <;> cases step <;> exact reset_to _
  · have acts := exec_acts (by simpa using reset) step
    cases c with
    | openTake => exact execOpenTake_blocksKept step kept
    | audioSpeech => exact execAudioSpeech_blocksKept step kept
    | audioSilence => exact execAudioSilence_blocksKept step kept
    | releaseTake => exact execReleaseTake_blocksKept step kept
    | releaseStepComplete => exact execReleaseStepComplete_blocksKept step kept
    | _ => exact State.blocksKept.reads.acts acts rfl kept

end

/-- Settles O6: only OPEN_TAKE, audio and a release move a block or a record, and each of them keeps the law. -/
theorem stepKeepsTheLawOfBlocks : Obligations.StepKeepsTheLawOfBlocks := by
  intro s t kept stepped
  unfold step at stepped
  split at stepped
  · cases stepped; exact kept
  · next c rest _ => exact exec_blocksKept (kept.queue rest s.resetHeld) stepped

end Sys2Proof.Machine

/-!
PROOFS. The port records (chapter 9): what a quiet or a loss leaves of them, and that every command keeps them lawful
(9.1, R144, R146, R148, R150 to R152, R162).
-/

namespace Sys2Proof.Machine

set_option Elab.async false

/-! ### The record a quiet or a loss leaves -/

/-- The port record once the effects of its role are over: the end of a readback makes a READER a RECORDER (R140,
R141). -/
def State.linkOnceOver (s : State) (p : PortNo) : Link :=
  { s.link p with role :=
      if (s.link p).role = some .reader ∧ (s.linkTake p).isSome then some .recorder else (s.link p).role }

/-- A link is read the same where no link is touched. -/
theorem Touches.link {ps : List Part} {s t : State} (touched : Touches ps s t)
    (outside : ps.contains .link = false := by rfl) (q : PortNo) : t.link q = s.link q := touched.get .link outside q

theorem State.linkOnceOver_stands {s : State} {p : PortNo}
    (other : ¬ ((s.link p).role = some .reader ∧ (s.linkTake p).isSome)) : s.linkOnceOver p = s.link p := by
  simp only [State.linkOnceOver, if_neg other]

/-- Where the record stands through the effects of its role, and what they do touches no link. -/
theorem Touches.link_once_over {ps : List Part} {s t : State} (touched : Touches ps s t) {p : PortNo}
    (stands : s.linkOnceOver p = s.link p) (q : PortNo) (outside : ps.contains .link = false := by rfl) :
    t.link q = if q = p then s.linkOnceOver p else s.link q := by
  rw [touched.link outside, stands]
  split <;> simp_all

theorem State.link_endReadback (s : State) (p : PortNo) (t : Take) (origin : Origin) (quiet : Bool) (q : PortNo) :
    (s.endReadback p t origin quiet).link q = if q = p then { s.link p with role := some .recorder } else s.link q := by
  have placed (b : Bool) (u : State) : Touches gapParts u (if b then u.placeLinkQuiet t else u) :=
    .ite (fun _ => u.placeLinkQuiet_touches t) (fun _ => .refl _ _)
  have before : Touches [.ctx, .arbiter, .intake, .takes, .cues, .cueArrival] s
      (((if quiet then ((s.removeCtx p).placeClosing t.id t.endTime .readbackEnd none origin).placeLinkQuiet t
        else (s.removeCtx p).placeClosing t.id t.endTime .readbackEnd none origin).updTake t.id
          (fun t => { t with state := .paused })).clearDiscard p) :=
    .seq (s.removeCtx_touches p) (.seq (ps := [.ctx, .arbiter, .intake, .takes, .cues, .cueArrival])
      (State.placeClosing_touches _ _ _ _ _ _) (.seq (ps := [.ctx, .arbiter, .intake, .takes, .cues, .cueArrival])
        (placed _ _) (.seq (ps := [.ctx, .arbiter, .intake, .takes, .cues, .cueArrival])
          (State.countTake_touches _ _ _) (State.clearDiscard_touches _ _))))
  simp only [State.endReadback, State.link_setLink, before.link]

theorem State.link_readerQuiet (s : State) (p q : PortNo) (role : (s.link p).role = some .reader) :
    (s.readerQuiet p).link q = if q = p then s.linkOnceOver p else s.link q := by
  unfold State.readerQuiet
  split
  · next none => exact (s.removeCtx_touches p).link_once_over (State.linkOnceOver_stands (by simp [none])) q
  · next t found => rw [State.link_endReadback]; simp [State.linkOnceOver, found, role]

theorem State.link_readerLoss (s : State) (p q : PortNo) (role : (s.link p).role = some .reader) :
    (s.readerLoss p).link q = if q = p then s.linkOnceOver p else s.link q := by
  unfold State.readerLoss
  split
  · next none => exact (s.removeCtx_touches p).link_once_over (State.linkOnceOver_stands (by simp [none])) q
  · next t found =>
    rw [(State.orphan_touches _ t).link, State.link_endReadback]; simp [State.linkOnceOver, found, role]

theorem State.link_quietEffects (s : State) (p q : PortNo) :
    (s.quietEffects p).link q = if q = p then s.linkOnceOver p else s.link q := by
  unfold State.quietEffects
  split <;> rename_i role
  · exact (s.recorderQuiet_touches p).link_once_over (State.linkOnceOver_stands (by simp [role])) q
  · exact s.link_readerQuiet p q role
  · exact (s.typistQuiet_touches p).link_once_over (State.linkOnceOver_stands (by simp [role])) q
  · exact (s.removeCtx_touches p).link_once_over (State.linkOnceOver_stands (by simp [role])) q
  · exact (Touches.refl [] s).link_once_over (State.linkOnceOver_stands (by simp [role])) q

theorem State.link_lossEffects (s : State) (p q : PortNo) :
    (s.lossEffects p).link q = if q = p then s.linkOnceOver p else s.link q := by
  unfold State.lossEffects
  split <;> rename_i role
  · exact (s.recorderLoss_touches p).link_once_over (State.linkOnceOver_stands (by simp [role])) q
  · exact s.link_readerLoss p q role
  · exact (s.typistLoss_touches p).link_once_over (State.linkOnceOver_stands (by simp [role])) q
  · exact (s.removeCtx_touches p).link_once_over (State.linkOnceOver_stands (by simp [role])) q
  · exact (Touches.refl [] s).link_once_over (State.linkOnceOver_stands (by simp [role])) q

theorem State.link_loseLink (s : State) (p q : PortNo) :
    (s.loseLink p).link q = if q = p then (s.link p).cleared else s.link q := by
  unfold State.loseLink
  split
  · simp only [State.link_setLink, State.link_lossEffects, if_true]
    split <;> rfl
  · simp

theorem State.link_faultPort (s : State) (p q : PortNo) : (s.faultPort p).link q =
    if q = p then { (s.link p).cleared with state := .faulted, faultLatch := true, sendTimer := false }
    else s.link q := by
  simp only [State.faultPort, State.link_updLink, State.link_loseLink, if_true]
  split <;> rfl

/-- The port record as a bad frame leaves it: warned, or FAULTED at a count of 255 (R146). -/
def Link.bad (l : Link) : Link :=
  if min 255 (l.errorCount + 8) = 255 then
    { l.cleared with errorCount := 255, warning := true, state := .faulted, faultLatch := true, sendTimer := false }
  else ({ l with errorCount := min 255 (l.errorCount + 8) } : Link).tested

theorem State.link_badFrameTaken (s : State) (p q : PortNo) :
    (s.badFrameTaken p).link q = if q = p then (s.link p).bad else s.link q := by
  by_cases same : q = p <;> by_cases top : min 255 ((s.link p).errorCount + 8) = 255 <;>
    simp [State.badFrameTaken, State.link_faultPort, Link.bad, Link.tested, Link.cleared, same, top]

/-! ### Lawful records -/

section
variable {l : Link}

/-- A port that takes frames is neither latched nor at the top count (R146, R147). -/
theorem Link.lawful.of_takesFrames (lawful : l.lawful) (takes : l.takesFrames = true) :
    l.faultLatch = false ∧ l.errorCount ≠ 255 := by
  have unlatched : ¬ l.faultLatch = true := fun latch => by
    rcases lawful.faulted.1 latch with state | ⟨state, -⟩ <;> simp [Link.takesFrames, state] at takes
  exact ⟨by simpa using unlatched, fun top => unlatched (lawful.latched.2 top)⟩

theorem Link.lawful.good (lawful : l.lawful) (takes : l.takesFrames = true) : l.good.tested.lawful := by
  obtain ⟨unlatched, below⟩ := lawful.of_takesFrames takes
  obtain ⟨count, clearance, bare, named, quiet, drop, send, warned, latched, faulted⟩ := lawful
  cases l with
  | mk state =>
    cases state <;> constructor <;>
      simp_all [Link.good, Link.tested, Link.isAttached, Link.takesFrames] <;> omega

theorem Link.lawful.bad (lawful : l.lawful) (takes : l.takesFrames = true) : l.bad.lawful := by
  obtain ⟨unlatched, below⟩ := lawful.of_takesFrames takes
  obtain ⟨count, clearance, bare, named, quiet, drop, send, warned, latched, faulted⟩ := lawful
  unfold Link.bad
  split
  · constructor <;> simp [Link.cleared, Link.isAttached, Link.takesFrames]
  · cases l with
    | mk state =>
      cases state <;> constructor <;> simp_all [Link.tested, Link.isAttached, Link.takesFrames]

/-- The record of a port without carrier (R144). -/
theorem Link.lawful.down (lawful : l.lawful) : ({ l.cleared with state := .down, sendTimer := false } : Link).lawful := by
  obtain ⟨count, clearance, bare, named, quiet, drop, send, warned, latched, faulted⟩ := lawful
  constructor <;> simp_all [Link.cleared, Link.isAttached, Link.takesFrames]

/-- The record of a port whose line broke (R147). -/
theorem Link.broken_lawful (l : Link) : ({ l.cleared with
    state := .listening, errorCount := 0, warning := false, faultLatch := false, sendTimer := true } : Link).lawful := by
  constructor <;> simp [Link.cleared, Link.isAttached, Link.takesFrames]

/-- The record of a port that leaves its attachment and listens (R149, R152). -/
theorem Link.lawful.listening (lawful : l.lawful) (takes : l.takesFrames = true) :
    ({ l.cleared with state := .listening } : Link).lawful := by
  obtain ⟨unlatched, below⟩ := lawful.of_takesFrames takes
  obtain ⟨count, clearance, bare, named, quiet, drop, send, warned, latched, faulted⟩ := lawful
  constructor <;> simp_all [Link.cleared, Link.isAttached, Link.takesFrames]

/-- The record of a port that gains carrier (R144). -/
theorem Link.lawful.carrier (lawful : l.lawful) (down : l.state = .down) :
    (if l.faultLatch then { l with state := .faulted }
      else { l with state := .listening, sendTimer := true } : Link).lawful := by
  obtain ⟨count, clearance, bare, named, quiet, drop, send, warned, latched, faulted⟩ := lawful
  split <;> constructor <;> simp_all [Link.isAttached, Link.takesFrames]

/-- The record of a port that has gone QUIET (R151). -/
theorem Link.lawful.quieted (lawful : l.lawful) (attached : l.state = .attached) (time : Nat) :
    ({ l with state := .quiet, quietTimer := false, dropTimer := some time } : Link).lawful := by
  obtain ⟨count, clearance, bare, named, quiet, drop, send, warned, latched, faulted⟩ := lawful
  constructor <;> simp_all [Link.isAttached, Link.takesFrames]

/-- An attached port may take another role, clearance and mask. -/
theorem Link.lawful.attachment (lawful : l.lawful) (attached : l.isAttached = true) {role : Option Role} {level : Nat}
    (named : role.isSome = true) (low : level ≤ 3) (mask : Nat) :
    ({ l with role := role, clearance := level, mask := mask } : Link).lawful where
  count := lawful.count
  clearance := low
  bare off := absurd (attached.symm.trans off) (by simp)
  named _ := ⟨named, (lawful.named attached).2⟩
  quiet := lawful.quiet
  drop := lawful.drop
  send := lawful.send
  warned := lawful.warned
  latched := lawful.latched
  faulted := lawful.faulted

/-- The record of a port that takes an ATTACH (R148). -/
theorem Link.lawful.attached (lawful : l.lawful) (listening : l.state = .listening) (r : Role) (station mask : Nat)
    {level : Nat} (low : level ≤ 3) : ({ l with
      state := .attached, role := some r, station := some station, mask := mask, clearance := level
      quietTimer := true } : Link).lawful := by
  obtain ⟨count, clearance, bare, named, quiet, drop, send, warned, latched, faulted⟩ := lawful
  constructor <;> simp_all [Link.isAttached, Link.takesFrames]

end

theorem mem_allPorts (p : PortNo) : p ∈ allPorts := by revert p; decide

/-! ### The clearance table -/

/-- The clearance table in its form: canonical, and 32 entries of levels 1 to 3 (R161). -/
structure ClearanceLaw (t : Table Nat) : Prop where
  wf : t.wf
  entries : t.length ≤ Config.clearanceEntries
  levels : ∀ e ∈ t, 1 ≤ e.2 ∧ e.2 ≤ 3

theorem ClearanceLaw.level_le {t : Table Nat} (law : ClearanceLaw t) (n : Nat) : (Table.find t n).getD 0 ≤ 3 := by
  cases found : Table.find t n with
  | none => simp
  | some level => exact (law.levels _ (TableLaws.mem_of_find found)).2

theorem TableLaws.length_put_of_find {α : Type} {t : Table α} (wf : t.wf) {k : Nat}
    (found : (Table.find t k).isSome = true) (v : α) : (t.put k v).length = t.length := by
  induction t with
  | nil => simp [Table.find] at found
  | cons d t ih =>
    obtain ⟨j, w⟩ := d
    obtain ⟨rising, wf⟩ := List.pairwise_cons.1 wf
    simp only [Table.put]
    split
    · next before =>
      have none := TableLaws.find_none_of_lt fun e here => lt_trans before (rising e here)
      rw [Table.find, if_neg (by omega), none] at found
      cases found
    · split
      · simp
      · next other => rw [Table.find, if_neg (Ne.symm other)] at found; simp [ih wf found]

/-- A write that the table takes leaves it in its form, the station at its level and every other as it was (R161). -/
theorem ClearanceLaw.write {t u : Table Nat} (law : ClearanceLaw t) {station level : Nat} (low : level ≤ 3)
    (written : writeClearance t station level = some u) : ClearanceLaw u ∧ (Table.find u station).getD 0 = level ∧
      ∀ n, n ≠ station → Table.find u n = Table.find t n := by
  unfold writeClearance at written
  split at written
  · next zero =>
    cases written
    refine ⟨⟨TableLaws.drop_wf law.wf _, (TableLaws.length_drop_le t _).trans law.entries, fun e here => ?_⟩, ?_, ?_⟩
    · exact law.levels e (TableLaws.mem_drop here)
    · simp [TableLaws.find_drop_self law.wf, zero]
    · exact fun n other => TableLaws.find_drop_ne other
  · split at written
    · next nonzero room =>
      cases written
      refine ⟨⟨TableLaws.put_wf law.wf _ _, ?_, fun e here => ?_⟩, ?_, ?_⟩
      · rcases (Bool.or_eq_true _ _).mp room with listed | room
        · exact (TableLaws.length_put_of_find law.wf listed _).trans_le law.entries
        · have := TableLaws.length_put_le t station level
          have := of_decide_eq_true room
          omega
      · rcases TableLaws.mem_put here with rfl | here
        · exact ⟨Nat.pos_of_ne_zero nonzero, low⟩
        · exact law.levels e here
      · simp [TableLaws.find_put_self]
      · exact fun n other => TableLaws.find_put_ne other _
    · cases written

/-! ### The sixteen records -/

/-- The port records lawful, and the clearance table, whose levels they take, in its form. -/
structure State.linksKept (s : State) : Prop where
  lawful : s.linksLawful
  table : ClearanceLaw s.clearances

section
variable {s t : State} {ps : List Part}

theorem State.levelOfStation_congr (same : t.clearances = s.clearances) (n : Nat) :
    t.levelOfStation n = s.levelOfStation n := by
  simp only [State.levelOfStation, same]

/-- One record changed: lawful as it stands, and attached only under an id no other port has, at that id's level. -/
theorem State.linksKept.change (kept : s.linksKept) (p : PortNo) (clearances : t.clearances = s.clearances)
    (others : ∀ q, q ≠ p → t.link q = s.link q) (lawful : (t.link p).lawful)
    (once : (t.link p).isAttached = true → ∀ q, q ≠ p → (s.link q).isAttached = true →
      (s.link q).station ≠ (t.link p).station)
    (level : ∀ n, (t.link p).isAttached = true → (t.link p).station = some n →
      (t.link p).clearance = s.levelOfStation n) : t.linksKept := by
  have levels := State.levelOfStation_congr clearances
  refine ⟨⟨fun q => ?_, fun q r attached attached' same => ?_, fun q n attached station => ?_⟩,
    clearances ▸ kept.table⟩
  · by_cases here : q = p
    · exact here ▸ lawful
    · exact others q here ▸ kept.lawful.each q
  · by_cases at_q : q = p <;> by_cases at_r : r = p
    · rw [at_q, at_r]
    · subst at_q; rw [others r at_r] at attached' same; exact absurd same.symm (once attached r at_r attached')
    · subst at_r; rw [others q at_q] at attached same; exact absurd same (once attached' q at_q attached)
    · rw [others q at_q] at attached same; rw [others r at_r] at attached' same
      exact kept.lawful.once q r attached attached' same
  · rw [levels]
    by_cases here : q = p
    · subst here; exact level n attached station
    · rw [others q here] at attached station ⊢; exact kept.lawful.level q n attached station

/-- One record changed, its attachment as it was or gone. -/
theorem State.linksKept.keep (kept : s.linksKept) (p : PortNo) (clearances : t.clearances = s.clearances)
    (others : ∀ q, q ≠ p → t.link q = s.link q) (lawful : (t.link p).lawful)
    (stands : (t.link p).isAttached = true → (s.link p).isAttached = true ∧
      (t.link p).station = (s.link p).station ∧ (t.link p).clearance = (s.link p).clearance) : t.linksKept := by
  refine kept.change p clearances others lawful (fun attached q other attached' same => ?_) fun n attached station => ?_
  · obtain ⟨before, station, -⟩ := stands attached
    exact other (kept.lawful.once q p attached' before (same.trans station))
  · obtain ⟨before, same, clearance⟩ := stands attached
    rw [clearance]; exact kept.lawful.level p n before (same ▸ station)

theorem State.linksKept.reads : ReadsOnly [.link, .clearances] State.linksKept := by
  intro s t ps kept touched outside
  have links : ∀ q, t.link q = s.link q := touched.same_of_reads outside (x := .link) (by simp)
  exact kept.keep 0 (touched.same_of_reads outside (x := .clearances) (by simp)) (fun q _ => links q)
    (links 0 ▸ kept.lawful.each 0) fun attached => by rw [links] at attached ⊢; exact ⟨attached, rfl, rfl⟩

theorem State.linksKept.goodFrame (kept : s.linksKept) {p : PortNo} (takes : (s.link p).takesFrames = true) :
    (s.goodFrame p).linksKept :=
  kept.keep p ((s.goodFrame_touches p).get .clearances rfl) (fun q other => by simp [other])
    (by simpa using (kept.lawful.each p).good takes) fun attached => by simpa using attached

theorem Follows.linksKept (follows : Follows (Keeps State.linksKept) s t) (kept : s.linksKept) : t.linksKept := by
  obtain ⟨g, arrival, keeps⟩ := follows
  rcases arrival with rfl | ⟨p, takes, rfl⟩
  · exact keeps kept
  · exact keeps (kept.goodFrame takes)

theorem ActsOn.linksKept (acts : ActsOn ps s t) (kept : s.linksKept)
    (outside : [Part.link, .clearances].all (fun x => !ps.contains x) = true := by rfl) : t.linksKept := by
  obtain ⟨g, arrival, touched⟩ := acts
  exact Follows.linksKept ⟨g, arrival, fun kept => State.linksKept.reads kept touched outside⟩ kept

/-- A port leaves its attachment, if it had one. -/
theorem State.linksKept.detached (kept : s.linksKept) (p : PortNo) {f : Link → Link}
    (lawful : (f (s.link p).cleared).lawful) (off : (f (s.link p).cleared).isAttached = false) :
    ((s.loseLink p).updLink p f).linksKept := by
  have link : ((s.loseLink p).updLink p f).link p = f (s.link p).cleared := by simp [State.link_loseLink]
  refine kept.keep p ?_ (fun q other => by simp [State.link_loseLink, other]) (link ▸ lawful) fun attached => ?_
  · exact (Touches.seq (ps := lossParts) (s.loseLink_touches p) (State.updLink_touches _ _ _)).get .clearances rfl
  · rw [link, off] at attached; cases attached

/-! ### The commands that change a port record -/

theorem execCarrierArrives_linksKept {p : PortNo} (step : execCarrierArrives p s = .next t) :
    s.linksKept → t.linksKept :=
  State.running_touches (Q := Keeps State.linksKept) step (refl := State.linksKept.reads.allows.refl) fun s kept => by
    split
    · next down =>
      have lawful := (kept.lawful.each p).carrier down
      split <;> rename_i latch <;>
        exact kept.keep p ((s.updLink_touches p _).get .clearances rfl) (fun q other => by simp [other])
          (by simpa [latch] using lawful) (by simp [Link.isAttached])
    · exact kept

theorem execCarrierLost_linksKept {p : PortNo} (step : execCarrierLost p s = .next t) : s.linksKept → t.linksKept :=
  State.running_touches (Q := Keeps State.linksKept) step (refl := State.linksKept.reads.allows.refl) fun s kept => by
    split
    · exact kept
    · exact kept.detached p (kept.lawful.each p).down rfl

theorem execLineBreak_linksKept {p : PortNo} (step : execLineBreak p s = .next t) : s.linksKept → t.linksKept :=
  State.running_touches (Q := Keeps State.linksKept) step (refl := State.linksKept.reads.allows.refl) fun s kept => by
    split
    · exact kept
    · exact kept.detached p (s.link p).broken_lawful rfl

theorem execBadFrame_linksKept {p : PortNo} (step : execBadFrame p s = .next t) : s.linksKept → t.linksKept :=
  State.running_touches (Q := Keeps State.linksKept) step (refl := State.linksKept.reads.allows.refl) fun s kept => by
    split
    · next takes =>
      have link := s.link_badFrameTaken p
      refine kept.keep p ((s.badFrameTaken_touches p).get .clearances rfl) (fun q other => by simp [link, other])
        (by simpa [link] using (kept.lawful.each p).bad takes) fun attached => ?_
      rw [link, if_pos rfl] at attached ⊢
      unfold Link.bad at attached ⊢
      split at attached
      · simp [Link.isAttached] at attached
      · next below => rw [if_neg below]; exact ⟨attached, rfl, rfl⟩
    · exact kept

theorem execDropTimerExpiry_linksKept {p : PortNo} (step : execDropTimerExpiry p s = .next t) :
    s.linksKept → t.linksKept :=
  State.running_touches (Q := Keeps State.linksKept) step (refl := State.linksKept.reads.allows.refl) fun s kept => by
    split
    · next quiet =>
      have takes : (s.link p).takesFrames = true := by simp_all [Link.takesFrames]
      exact kept.detached p ((kept.lawful.each p).listening takes) rfl
    · exact kept

theorem execDetach_linksKept {p : PortNo} {tag : Byte} (step : execDetach p tag s = .next t) :
    s.linksKept → t.linksKept :=
  Follows.linksKept <| State.running_acts step (refl := State.linksKept.reads.allows.refl) fun s =>
    s.onCommand_acts _ (allows := State.linksKept.reads.allows) fun _ _ attached kept =>
      State.linksKept.reads.allows.reply _ _ _ _ (kept.detached p
        ((kept.lawful.each p).listening (Link.takesFrames_of_isAttached attached)) rfl)

theorem execQuietTimerExpiry_linksKept {p : PortNo} (step : execQuietTimerExpiry p s = .next t) :
    s.linksKept → t.linksKept :=
  State.running_touches (Q := Keeps State.linksKept) step (refl := State.linksKept.reads.allows.refl) fun s kept => by
    split
    · next expired =>
      have state : (s.link p).state = .attached := by simp_all
      have attached : (s.link p).isAttached = true := by simp [Link.isAttached, state]
      have quieted := (kept.lawful.each p).quieted state s.dropTime
      have clearances := (Touches.seq (ps := lossParts) (s.updLink_touches p fun l => { l with
        state := .quiet, quietTimer := false, dropTimer := some s.dropTime })
        (State.quietEffects_touches _ p)).get .clearances rfl
      refine kept.keep p clearances (fun q other => by simp [State.link_quietEffects, other]) ?_ ?_
      · rw [State.link_quietEffects, if_pos rfl]
        simp only [State.linkOnceOver, State.link_updLink, if_true]
        refine quieted.attachment rfl ?_ quieted.clearance _
        split
        · rfl
        · exact (quieted.named rfl).1
      · rw [State.link_quietEffects, if_pos rfl]
        simp only [State.linkOnceOver, State.link_updLink, if_true]
        exact fun _ => ⟨attached, trivial, trivial⟩
    · exact kept

theorem execSetMask_linksKept {p : PortNo} {tag : Byte} {mask : Nat} (step : execSetMask p tag mask s = .next t) :
    s.linksKept → t.linksKept :=
  Follows.linksKept <| State.running_acts step (refl := State.linksKept.reads.allows.refl) fun s =>
    s.onCommand_acts _ (allows := State.linksKept.reads.allows) fun _ g attached kept => by
      split
      · have lawful := kept.lawful.each p
        refine State.linksKept.reads.allows.reply _ _ _ _ (kept.keep p ((g.updLink_touches p _).get .clearances rfl)
          (fun q other => by simp [other]) ?_ (by simp [Link.isAttached]))
        simpa using lawful.attachment attached (lawful.named attached).1 lawful.clearance mask
      · exact State.linksKept.reads.allows.reply _ _ _ _ kept

/-- An attached port takes another role, whatever else happens to other parts. -/
theorem State.linksKept.newRole (kept : s.linksKept) {p : PortNo} (attached : (s.link p).isAttached = true) (r : Role)
    (clearances : t.clearances = s.clearances)
    (links : ∀ q, t.link q = if q = p then { s.link p with role := some r } else s.link q) : t.linksKept := by
  have lawful := kept.lawful.each p
  refine kept.keep p clearances (fun q other => by rw [links, if_neg other]) ?_ fun _ => ?_
  · rw [links, if_pos rfl]; exact lawful.attachment attached rfl lawful.clearance _
  · rw [links, if_pos rfl]; exact ⟨attached, rfl, rfl⟩

theorem execReadbackEnd_linksKept {p : PortNo} {tag : Byte} (step : execReadbackEnd p tag s = .next t) :
    s.linksKept → t.linksKept :=
  Follows.linksKept <| State.running_acts step (refl := State.linksKept.reads.allows.refl) fun s =>
    s.onTake_acts _ (allows := State.linksKept.reads.allows) fun _ g u attached kept => by
      split
      · exact State.linksKept.reads.allows.reply _ _ _ _ (kept.newRole attached .recorder
          ((g.endReadback_touches _ _ _ _).get .clearances rfl) (g.link_endReadback _ _ _ _))
      · exact State.linksKept.reads.allows.reply _ _ _ _ kept

theorem State.link_beginReadback (s : State) (c : Cmd) (t : Take) (named : Nat) (below : Bool) (q : PortNo) :
    (s.beginReadback c t named below).link q =
      if q = c.port then { s.link c.port with role := some .reader } else s.link q := by
  have placed := fun (u : State) => (u.placeIfAdmitted_touches t.id t.endTime .readbackBegin none .recorder).link
  have created := fun (u : State) => (u.createCtx_touches c.port .reader t.id 0 t.endTime
    (clamp 0 t.endTime (even named)) .stopped false).link
  have cleared := fun (u : State) => (u.clearDiscard_touches c.port).link
  simp only [State.beginReadback, State.replyBoth_eq, State.link_reply, created, cleared, State.link_updLink, placed,
    State.link_updTake]

theorem execReadbackBegin_linksKept {p : PortNo} {tag : Byte} {form value : Nat}
    (step : execReadbackBegin p tag form value s = .next t) : s.linksKept → t.linksKept :=
  Follows.linksKept <| State.running_acts step (refl := State.linksKept.reads.allows.refl) fun s =>
    s.onTake_acts _ (allows := State.linksKept.reads.allows) fun _ g u attached kept => by
      split
      · exact State.linksKept.reads.allows.reply _ _ _ _ kept
      · split
        · exact State.linksKept.reads.allows.reply _ _ _ _ kept
        · split
          · exact State.linksKept.reads.allows.reply _ _ _ _ kept
          · split
            · exact State.linksKept.reads.allows.reply _ _ _ _ kept
            · exact kept.newRole attached .reader ((g.beginReadback_touches _ _ _ _).get .clearances rfl)
                (g.link_beginReadback _ _ _ _)

theorem State.linksKept.attachPort (kept : s.linksKept) {c : Cmd} (listening : (s.link c.port).state = .listening)
    {station : Nat} (free : s.attachedElsewhere c.port station = false) (role : Role) (mask : Nat) :
    (s.attachPort c station role mask).linksKept := by
  have links (q : PortNo) : (s.attachPort c station role mask).link q = if q = c.port then
      { s.link c.port with
        state := .attached, role := some role, station := some station, mask := mask
        clearance := s.levelOfStation station, quietTimer := true }
      else s.link q := by
    simp only [State.attachPort, State.ok_eq, State.link_reply, (State.clearDiscard_touches _ _).link,
      State.link_updLink]
  refine kept.change c.port ((s.attachPort_touches _ _ _ _).get .clearances rfl)
    (fun q other => by rw [links, if_neg other]) ?_ (fun _ q other attached => ?_) fun n _ same => ?_
  · rw [links, if_pos rfl]
    exact (kept.lawful.each c.port).attached listening _ _ _ (kept.table.level_le station)
  · rw [links, if_pos rfl]
    intro same
    have absent := List.any_eq_false.1 free q (mem_allPorts q)
    simp_all
  · rw [links, if_pos rfl] at same ⊢
    cases same; rfl

theorem execAttach_linksKept {p : PortNo} {tag : Byte} {station role mask : Nat}
    (step : execAttach p tag station role mask s = .next t) : s.linksKept → t.linksKept :=
  Follows.linksKept <| State.running_acts step (refl := State.linksKept.reads.allows.refl) fun s => by
    dsimp only
    split
    · next takes =>
      refine ⟨s.goodFrame p, .inr ⟨p, takes, rfl⟩, fun kept => ?_⟩
      split
      · exact State.linksKept.reads.allows.reply _ _ _ _ kept
      · next unattached =>
        split
        · exact State.linksKept.reads.allows.reply _ _ _ _ kept
        · split
          · exact State.linksKept.reads.allows.reply _ _ _ _ kept
          · split
            · exact State.linksKept.reads.allows.reply _ _ _ _ kept
            · next free =>
              refine kept.attachPort ?_ (by simpa using free) _ _
              have still : ((s.goodFrame p).link p).takesFrames = true := by simp [takes]
              simp_all [Link.takesFrames, Link.isAttached]
    · exact Follows.here (State.linksKept.reads.allows.refl _)

theorem State.link_carryClearance (s : State) (station old level : Nat) (q : PortNo) :
    (s.carryClearance station old level).link q = if s.portOfStation station = some q ∧ old ≠ level then
      { s.link q with clearance := level } else s.link q := by
  have settled (u : State) (p : PortNo) : (if level < old then (u.fallOffer p level).fallReservation p level
      else u.offerPass? (u.readyPool p)).link q = u.link q :=
    Touches.link (ps := offerParts) (.ite (fun _ => .seq (u.fallOffer_touches _ _) (State.fallReservation_touches _ _ _))
      (fun _ => u.offerPassOf_touches _)) rfl q
  unfold State.carryClearance
  split
  · next none => simp [none]
  · next p found =>
    by_cases same : old = level
    · simp [same]
    · rw [if_neg same, settled, State.link_updLink]
      by_cases here : q = p
      · simp [same, found, here]
      · simp [found, here, Ne.symm here]

/-- A level of the table is carried to the station's port, so every attached station stays at its level (R161,
R162). -/
theorem State.linksKept.setLevel (kept : s.linksKept) {station level : Nat} (low : level ≤ 3) {u : Table Nat}
    (written : writeClearance s.clearances station level = some u) :
    (State.carryClearance { s with clearances := u } station ((Table.find s.clearances station).getD 0) level).linksKept := by
  obtain ⟨table, at_station, elsewhere⟩ := kept.table.write low written
  have clearances : (State.carryClearance { s with clearances := u } station
      ((Table.find s.clearances station).getD 0) level).clearances = u :=
    (State.carryClearance_touches _ _ _ _).get .clearances rfl
  have links := State.link_carryClearance { s with clearances := u } station
    ((Table.find s.clearances station).getD 0) level
  have link_eq (q : PortNo) : State.link { s with clearances := u } q = s.link q := rfl
  generalize State.carryClearance _ _ _ _ = t at clearances links ⊢
  have port_spec {q : PortNo} (found : State.portOfStation { s with clearances := u } station = some q) :
      (s.link q).isAttached = true ∧ (s.link q).station = some station := by
    simpa [link_eq] using List.find?_some found
  have standing (q : PortNo) : (t.link q).isAttached = (s.link q).isAttached ∧
      (t.link q).station = (s.link q).station := by
    rw [links]; split <;> exact ⟨rfl, rfl⟩
  refine ⟨⟨fun q => ?_, fun q r attached attached' same => ?_, fun q n attached same => ?_⟩, clearances ▸ table⟩
  · rw [links]
    split
    · next carried =>
      obtain ⟨attached, -⟩ := port_spec carried.1
      have lawful := kept.lawful.each q
      exact lawful.attachment attached (lawful.named attached).1 low _
    · exact kept.lawful.each q
  · simp only [standing] at attached attached' same
    exact kept.lawful.once q r attached attached' same
  · simp only [standing] at attached same
    have before := kept.lawful.level q n attached same
    simp only [State.levelOfStation, clearances] at before ⊢
    rw [links]
    by_cases here : n = station
    · subst here
      have found : State.portOfStation { s with clearances := u } n = some q := by
        cases found : State.portOfStation { s with clearances := u } n with
        | none =>
          have absent := List.find?_eq_none.1 found q (mem_allPorts q)
          simp [link_eq, attached, same] at absent
        | some r =>
          obtain ⟨attached', same'⟩ := port_spec found
          rw [kept.lawful.once q r attached attached' (same.trans same'.symm)]
      split
      · exact at_station.symm
      · next still => rw [link_eq, before, at_station]; simpa [found] using still
    · rw [if_neg, elsewhere n here]
      · exact before
      · rintro ⟨found, -⟩
        exact here (Option.some.inj (same.symm.trans (port_spec found).2))

theorem execSetClearance_linksKept {p : PortNo} {tag : Byte} {station level : Nat}
    (step : execSetClearance p tag station level s = .next t) : s.linksKept → t.linksKept :=
  Follows.linksKept <| State.running_acts step (refl := State.linksKept.reads.allows.refl) fun s =>
    s.asRole_acts _ _ (allows := State.linksKept.reads.allows) fun g kept => by
      split
      · exact State.linksKept.reads.allows.reply _ _ _ _ kept
      · dsimp only
        split
        · exact State.linksKept.reads.allows.reply _ _ _ _ kept
        · next u written =>
          rw [State.replyBoth_eq]
          exact State.linksKept.reads.allows.reply _ _ _ _ (kept.setLevel (by simp) written)

end

end Sys2Proof.Machine

/-!
PROOFS. Every step keeps the state well kept: the tables canonical, the sizes, the settings in range and the port
records lawful (1.1, 9.1, R73, R110, R118, R157, R160, R161).
-/

namespace Sys2Proof.Machine

set_option Elab.async false

section
variable {s t : State}

/-! ### The port records and the clearance table -/

theorem exec_linksKept {c : Instr} (no_reset : isReset c = false) (step : exec c s = .next t) (kept : s.linksKept) :
    t.linksKept := by
  have acts := exec_acts no_reset step
  cases c with
  | powerOnReset | hardReset | resetPinAsserted => cases no_reset
  | carrierArrives => exact execCarrierArrives_linksKept step kept
  | carrierLost => exact execCarrierLost_linksKept step kept
  | lineBreak => exact execLineBreak_linksKept step kept
  | badFrame => exact execBadFrame_linksKept step kept
  | attach => exact execAttach_linksKept step kept
  | detach => exact execDetach_linksKept step kept
  | setMask => exact execSetMask_linksKept step kept
  | readbackBegin => exact execReadbackBegin_linksKept step kept
  | readbackEnd => exact execReadbackEnd_linksKept step kept
  | setClearance => exact execSetClearance_linksKept step kept
  | quietTimerExpiry => exact execQuietTimerExpiry_linksKept step kept
  | dropTimerExpiry => exact execDropTimerExpiry_linksKept step kept
  | _ => exact ActsOn.linksKept acts kept

/-! ### The slots of the take table -/

/-- The take table canonical, its slots below 64 (R1). -/
def State.slotsKept (s : State) : Prop := s.takes.wf ∧ ∀ e ∈ s.takes, e.1 < Config.takeSlots

theorem State.slotsKept.reads : ReadsOnly [.takeKeys] State.slotsKept := by
  intro s t ps kept touched outside
  have keys : t.takeKeys = s.takeKeys := touched.same_of_reads outside (x := .takeKeys) (by simp)
  unfold State.slotsKept at *
  rwa [slotsLawful_iff, State.slots_of_takeKeys keys, ← slotsLawful_iff]

theorem State.slotsKept.openNew (kept : s.slotsKept) (c : Cmd) (matter : Nat) : (s.openNew c matter).slotsKept := by
  unfold State.openNew
  split
  · exact reads kept (State.reply_touches _ _ _ _) rfl
  · next slot free =>
    obtain ⟨-, -, slot_lt, -⟩ := TableLaws.firstFree_spec free
    have opened : State.slotsKept { s with
        takes := Table.put s.takes slot (s.openedTake c.port matter)
        takeIdCounter := bumpId (s.openedTake c.port matter).id } := by
      refine ⟨TableLaws.put_wf kept.1 _ _, fun e here => ?_⟩
      rcases TableLaws.mem_put here with rfl | here
      · simpa using slot_lt
      · exact kept.2 e here
    exact reads opened (.seq (ps := [.intake, .out]) (State.setIntake_touches _ _ _) (State.reply_touches _ _ _ _)) rfl

theorem State.slotsKept.completeRelease (kept : s.slotsKept) (take : Nat) : (s.completeRelease take).slotsKept := by
  have freed : State.slotsKept { s with takes := s.takes.filter fun e => e.2.id ≠ take } :=
    ⟨TableLaws.filter_wf kept.1 _, fun e here => kept.2 e (List.mem_of_mem_filter here)⟩
  exact reads freed (State.notifyDesks_touches _ _) rfl

theorem execOpenTake_slotsKept {p : PortNo} {tag : Byte} {matter : Nat} (step : execOpenTake p tag matter s = .next t) :
    s.slotsKept → t.slotsKept :=
  State.slotsKept.reads.follows <| State.running_acts step (refl := State.slotsKept.reads.allows.refl) fun s =>
    s.opening_acts _ (fun _ kept => kept.openNew _ _) State.slotsKept.reads.allows

theorem execReleaseTake_slotsKept {p : PortNo} {tag : Byte} {take : Nat}
    (step : execReleaseTake p tag take s = .next t) : s.slotsKept → t.slotsKept :=
  State.slotsKept.reads.follows <| State.running_acts step (refl := State.slotsKept.reads.allows.refl) fun s =>
    s.asRole_acts _ _ (allows := State.slotsKept.reads.allows) fun g kept => by
      split
      · exact State.slotsKept.reads.allows.reply _ _ _ _ kept
      · split
        · exact State.slotsKept.reads.allows.reply _ _ _ _ kept
        · have marked : ((g.updTake take fun u => { u with state := .releasing }).ok
              { port := p, tag := tag, code := 0x42 } []).slotsKept :=
            State.slotsKept.reads kept (.seq (ps := [.takes, .out]) (g.countTake_touches _ _)
              (State.reply_touches _ _ _ _)) rfl
          dsimp only
          split
          · exact marked.completeRelease take
          · exact State.slotsKept.reads marked (State.requestRelease_touches _ _ _) rfl

theorem execReleaseStepComplete_slotsKept (step : execReleaseStepComplete s = .next t) :
    s.slotsKept → t.slotsKept :=
  State.running_touches (Q := Keeps State.slotsKept) step (refl := State.slotsKept.reads.allows.refl) fun s kept => by
    have ended {u : State} (kept : u.slotsKept) : u.endTenure.grant.slotsKept :=
      State.slotsKept.reads kept (.seq (ps := [.arbiter]) u.endTenure_touches (State.grant_touches _)) rfl
    split
    · next take _ =>
      split
      · next block _ _ _ =>
        have freed : (s.freeHead take block).slotsKept := State.slotsKept.reads kept (s.freeHead_touches take block) rfl
        dsimp only
        split
        · exact ended (freed.completeRelease take)
        · exact ended freed
      · exact ended kept
    · exact kept

theorem exec_slotsKept {c : Instr} (no_reset : isReset c = false) (step : exec c s = .next t) (kept : s.slotsKept) :
    t.slotsKept := by
  have acts := exec_acts no_reset step
  cases c with
  | openTake => exact execOpenTake_slotsKept step kept
  | releaseTake => exact execReleaseTake_slotsKept step kept
  | releaseStepComplete => exact execReleaseStepComplete_slotsKept step kept
  | _ => exact State.slotsKept.reads.acts acts rfl kept

/-! ### Forms, counts and the clock -/

/-- What no command but a reset can break: the forms of the store and its directory, the sizes of the chunk table and
the log, the tops of the counters, and the commands that wait. -/
structure State.standing (s : State) : Prop where
  directory : s.directory.wf
  store : s.store.wf
  chunks : s.chunks.length ≤ Config.chunkRecords
  log : s.log.length ≤ Config.logRecords
  cues : s.cueArrival ≤ Config.top32
  arrivals : s.arrivalSeq ≤ Config.top32
  waiting : ∀ i ∈ s.pending, i.wellFormed = true

/-- The parts those laws read, each of which is a law itself but the last. -/
abbrev standingParts : List Part :=
  [.directoryForm, .storeForm, .chunkSize, .logSize, .cueTop, .arrivalTop, .pending]

theorem State.standing.reads : ReadsOnly standingParts State.standing := by
  intro s t ps kept touched outside
  have part {x : Part} (law : x ∈ standingParts) : x.same s t := touched.same_of_reads outside law
  have pending : t.pending = s.pending := part (x := .pending) (by simp)
  exact ⟨part (x := .directoryForm) (by simp) kept.directory, part (x := .storeForm) (by simp) kept.store,
    part (x := .chunkSize) (by simp) kept.chunks, part (x := .logSize) (by simp) kept.log,
    part (x := .cueTop) (by simp) kept.cues, part (x := .arrivalTop) (by simp) kept.arrivals, pending ▸ kept.waiting⟩

theorem exec_standing {c : Instr} (no_reset : isReset c = false) (step : exec c s = .next t) (kept : s.standing) :
    t.standing := by
  have acts := exec_acts no_reset step
  cases c <;> exact State.standing.reads.acts acts rfl kept

/-- The clock at most at its top value (R160). -/
def State.clockKept (s : State) : Prop := s.clock ≤ Config.top32

theorem State.clockKept.reads : ReadsOnly [.clock] State.clockKept := by
  intro s t ps kept touched outside
  have clock : t.clock = s.clock := touched.same_of_reads outside (x := .clock) (by simp)
  unfold State.clockKept at *
  rwa [clock]

theorem execSetClock_clockKept {p : PortNo} {tag : Byte} {seconds : Nat} (low : seconds ≤ Config.top32)
    (step : execSetClock p tag seconds s = .next t) : s.clockKept → t.clockKept :=
  State.clockKept.reads.follows <| State.running_acts step (refl := State.clockKept.reads.allows.refl) fun s =>
    s.asRole_acts _ _ (allows := State.clockKept.reads.allows) fun g _ =>
      State.clockKept.reads.allows.reply { g with clock := seconds } _ _ _ low

theorem execOfficeClockTick_clockKept (step : execOfficeClockTick s = .next t) : s.clockKept → t.clockKept :=
  State.running_touches (Q := Keeps State.clockKept) step (refl := State.clockKept.reads.allows.refl)
    fun s _ => Nat.min_le_right (s.clock + 1) _

theorem exec_clockKept {c : Instr} (no_reset : isReset c = false) (formed : c.wellFormed = true)
    (step : exec c s = .next t) (kept : s.clockKept) : t.clockKept := by
  have acts := exec_acts no_reset step
  cases c with
  | setClock p tag seconds =>
    have low : seconds ≤ Config.top32 := by
      simp [Instr.wellFormed, fits] at formed
      simp only [Config.top32]; omega
    exact execSetClock_clockKept low step kept
  | officeClockTick => exact execOfficeClockTick_clockKept step kept
  | _ => exact State.clockKept.reads.acts acts rfl kept

/-! ### Position stacks -/

/-- Position stacks of at most eight values (R118). -/
def State.stacksKept (s : State) : Prop := ∀ p c, s.ctx p = some c → c.stack.length ≤ Config.stackDepth

theorem State.stacksKept.reads : ReadsOnly [.positions] State.stacksKept := by
  intro s t ps kept touched outside p c found
  have positions := touched.same_of_reads outside (x := .positions) (by simp)
  rcases positions p c found with none | ⟨d, before, same⟩
  · simp [none]
  · exact same ▸ kept p d before

theorem State.stacksKept.move (kept : s.stacksKept) (c : Cmd) (x : Ctx) (changed : Bool) (items : List Item)
    (depth : x.stack.length ≤ Config.stackDepth) : (s.move c x changed items).stacksKept := by
  have moved : (s.setCtx c.port (some x)).stacksKept := by
    intro p d found
    rw [State.ctx_setCtx] at found
    split at found
    · cases found; exact depth
    · exact kept p d found
  exact reads moved (.seq (ps := [.ctx, .arbiter, .out]) (State.afterMove_touches _ _)
    (.seq (ps := [.ctx, .arbiter, .out]) (State.reply_touches _ _ _ _) (State.afterMoveReply_touches _ _ _))) rfl

theorem Ctx.push_stack_length (x : Ctx) : x.push.stack.length ≤ Config.stackDepth := List.length_take_le ..

/-- A pedal command whose moves keep the stacks keeps them. -/
theorem State.stacksKept.asPlayer {c : Cmd} {f : State → Ctx → State}
    (step : s.running (fun s => s.asPlayer c f) = .next t)
    (owner : ∀ g x, g.stacksKept → x.stack.length ≤ Config.stackDepth → (f g x).stacksKept) :
    s.stacksKept → t.stacksKept :=
  reads.follows <| State.running_acts step (refl := reads.allows.refl) fun s =>
    s.asPlayer_acts c (allows := reads.allows) fun g x found kept => owner g x kept (kept _ _ found)

section
variable {p : PortNo} {tag : Byte}

theorem execStepBack_stacksKept {n : Nat} (step : execStepBack p tag n s = .next t) : s.stacksKept → t.stacksKept :=
  State.stacksKept.asPlayer step fun _ _ kept depth => kept.move _ _ _ _ (by exact depth)

theorem execStepAhead_stacksKept {n : Nat} (step : execStepAhead p tag n s = .next t) :
    s.stacksKept → t.stacksKept :=
  State.stacksKept.asPlayer step fun _ _ kept depth => kept.move _ _ _ _ (by exact depth)

theorem execSeek_stacksKept {n : Nat} (step : execSeek p tag n s = .next t) : s.stacksKept → t.stacksKept :=
  State.stacksKept.asPlayer step fun _ _ kept depth => kept.move _ _ _ _ (by exact depth)

theorem execJumpTime_stacksKept {n : Nat} (step : execJumpTime p tag n s = .next t) : s.stacksKept → t.stacksKept :=
  State.stacksKept.asPlayer step fun _ x kept _ => kept.move _ _ _ _ (by exact x.push_stack_length)

theorem execSeekCue_stacksKept {direction kinds : Nat} (step : execSeekCue p tag direction kinds s = .next t) :
    s.stacksKept → t.stacksKept :=
  State.stacksKept.asPlayer step fun _ _ kept depth => by
    split
    · exact State.stacksKept.reads.allows.reply _ _ _ _ kept
    · split
      · split
        · exact State.stacksKept.reads.allows.reply _ _ _ _ kept
        · exact kept.move _ _ _ _ (by exact depth)
      · exact State.stacksKept.reads.allows.reply _ _ _ _ kept

theorem execJumpCue_stacksKept {cue : Nat} (step : execJumpCue p tag cue s = .next t) : s.stacksKept → t.stacksKept :=
  State.stacksKept.asPlayer step fun _ x kept _ => by
    split
    · exact State.stacksKept.reads.allows.reply _ _ _ _ kept
    · exact kept.move _ _ _ _ (by exact x.push_stack_length)

theorem execBacktrack_stacksKept (step : execBacktrack p tag s = .next t) : s.stacksKept → t.stacksKept :=
  State.stacksKept.asPlayer step fun _ x kept depth => by
    split
    · exact State.stacksKept.reads.allows.reply _ _ _ _ kept
    · next top rest stack =>
      rw [stack] at depth
      exact kept.move _ _ _ _ (by exact Nat.le_of_succ_le depth)

end

theorem exec_stacksKept {c : Instr} (no_reset : isReset c = false) (step : exec c s = .next t) (kept : s.stacksKept) :
    t.stacksKept := by
  have acts := exec_acts no_reset step
  cases c with
  | stepBack => exact execStepBack_stacksKept step kept
  | stepAhead => exact execStepAhead_stacksKept step kept
  | seek => exact execSeek_stacksKept step kept
  | seekCue => exact execSeekCue_stacksKept step kept
  | jumpTime => exact execJumpTime_stacksKept step kept
  | jumpCue => exact execJumpCue_stacksKept step kept
  | backtrack => exact execBacktrack_stacksKept step kept
  | _ => exact State.stacksKept.reads.acts acts rfl kept

/-! ### Settings -/

/-- The parts the ranges of the settings read. -/
abbrev settingsParts : List Part :=
  [.filter, .defaultAction, .pauseThreshold, .watermark, .parameters, .offerTimeout, .grace, .dropTime]

theorem Pool.inRange_iff_parameters (q : Pool) : q.inRange ↔ q.parameters.inRange := Iff.rfl

theorem State.settingsInRange.reads : ReadsOnly settingsParts State.settingsInRange := by
  intro s t ps kept touched outside
  have part {x : Part} (law : x ∈ settingsParts) : x.same s t := touched.same_of_reads outside law
  have filter : t.filter = s.filter := part (x := .filter) (by simp)
  have default : t.defaultAction = s.defaultAction := part (x := .defaultAction) (by simp)
  have pause : t.pauseThreshold = s.pauseThreshold := part (x := .pauseThreshold) (by simp)
  have watermark : t.watermark = s.watermark := part (x := .watermark) (by simp)
  have parameters : ∀ k, (t.pool k).parameters = (s.pool k).parameters := part (x := .parameters) (by simp)
  have offer : t.offerTimeout = s.offerTimeout := part (x := .offerTimeout) (by simp)
  have grace : t.grace = s.grace := part (x := .grace) (by simp)
  have drop : t.dropTime = s.dropTime := part (x := .dropTime) (by simp)
  refine ⟨?_, default ▸ kept.default, pause ▸ kept.pause, watermark ▸ kept.watermark, fun k => ?_, offer ▸ kept.offer,
    grace ▸ kept.grace, drop ▸ kept.drop⟩
  · rw [filter]; exact kept.filter
  · rw [Pool.inRange_iff_parameters, parameters]; exact kept.pools k

theorem State.settingsInRange.replyClamped (kept : s.settingsInRange) (c : Cmd) (changed : Bool) (items : List Item) :
    (s.replyClamped c changed items).settingsInRange := by
  rw [State.replyClamped_eq]; exact reads.allows.reply _ _ _ _ kept

theorem clamp_mem {lo hi : Nat} (range : lo ≤ hi) (n : Nat) : lo ≤ clamp lo hi n ∧ clamp lo hi n ≤ hi := by
  rw [clamp_eq lo hi n range]; omega

theorem actionOf_inRange {target turnaround whole floor : Nat} {a : Action}
    (action : actionOf target turnaround whole floor = some a) : a.inRange := by
  unfold actionOf at action
  split at action
  · cases action
    have turnaround_range : 600 ≤ clamp 600 2592000 turnaround ∧ clamp 600 2592000 turnaround ≤ 2592000 :=
      clamp_mem (by decide) _
    exact ⟨turnaround_range.1, turnaround_range.2, (clamp_mem (Nat.zero_le _) floor).2⟩
  · cases action

theorem splitParameters_inRange (q : Pool) (length window leadIn ratio : Nat) : Pool.inRange { q with
    length := splitLength length, window := splitWindow length window, leadIn := splitLeadIn length leadIn
    ratio := clamp 4 64 ratio } := by
  have low : 6000 ≤ clamp 6000 180000 length ∧ clamp 6000 180000 length ≤ 180000 := clamp_mem (by decide) _
  have ratio_range : 4 ≤ clamp 4 64 ratio ∧ clamp 4 64 ratio ≤ 64 := clamp_mem (by decide) _
  simp only [Pool.inRange, splitLength, splitWindow, splitLeadIn, even, clamp_zero]
  omega

theorem State.settingsInRange.setPool (kept : s.settingsInRange) (k : PoolId) {q : Pool} (range : q.inRange) :
    (s.setPool k q).settingsInRange := by
  refine { kept with pools := fun j => ?_ }
  rw [State.pool_setPool]
  split
  · exact range
  · exact kept.pools j

theorem State.settingsInRange.setFilter (kept : s.settingsInRange) {index : Nat} (listed : index < 32) {e : FilterElem}
    (range : e.action.inRange) : State.settingsInRange { s with filter := s.filter.set index e listed } := by
  refine { kept with filter := fun i low => ?_ }
  dsimp only
  rw [Vector.getElem_set]
  split
  · exact range
  · exact kept.filter i low

/-- A setting write whose owner keeps the settings in range keeps them. -/
theorem State.settingsInRange.asSetting {c : Cmd} {f : State → State}
    (step : s.running (fun s => s.asSetting c f) = .next t)
    (owner : ∀ g, g.settingsInRange → (f g).settingsInRange) : s.settingsInRange → t.settingsInRange :=
  reads.follows <| State.running_acts step (refl := reads.allows.refl) fun s =>
    s.asSetting_acts c (allows := reads.allows) owner

section
variable {p : PortNo} {tag : Byte}

theorem execSetFilter_inRange {index enabled kind first second target turnaround whole floor : Nat}
    (step : execSetFilter p tag index enabled kind first second target turnaround whole floor s = .next t) :
    s.settingsInRange → t.settingsInRange :=
  State.settingsInRange.asSetting step fun g kept => by
    split
    · next listed =>
      split
      · next action =>
        exact (kept.setFilter listed (e := { action := _, .. }) (actionOf_inRange action)).replyClamped _ _ _
      · exact State.settingsInRange.reads.allows.reply _ _ _ _ kept
    · exact State.settingsInRange.reads.allows.reply _ _ _ _ kept

theorem execSetDefaultAction_inRange {target turnaround whole floor : Nat}
    (step : execSetDefaultAction p tag target turnaround whole floor s = .next t) :
    s.settingsInRange → t.settingsInRange :=
  State.settingsInRange.asSetting step fun g kept => by
    split
    · next a action =>
      exact State.settingsInRange.replyClamped (s := { g with defaultAction := a })
        { kept with default := actionOf_inRange action } _ _ _
    · exact State.settingsInRange.reads.allows.reply _ _ _ _ kept

theorem execSetPauseThreshold_inRange {n : Nat} (step : execSetPauseThreshold p tag n s = .next t) :
    s.settingsInRange → t.settingsInRange :=
  State.settingsInRange.asSetting step fun g kept =>
    State.settingsInRange.replyClamped (s := { g with pauseThreshold := clamp 40 1000 n })
      { kept with pause := clamp_mem (by decide) n } _ _ _

theorem execSetOfferTimeout_inRange {n : Nat} (step : execSetOfferTimeout p tag n s = .next t) :
    s.settingsInRange → t.settingsInRange :=
  State.settingsInRange.asSetting step fun g kept =>
    State.settingsInRange.replyClamped (s := { g with offerTimeout := clamp 5 255 n })
      { kept with offer := clamp_mem (by decide) n } _ _ _

theorem execSetGrace_inRange {n : Nat} (step : execSetGrace p tag n s = .next t) :
    s.settingsInRange → t.settingsInRange :=
  State.settingsInRange.asSetting step fun g kept =>
    State.settingsInRange.replyClamped (s := { g with grace := clamp 60 7200 n })
      { kept with grace := clamp_mem (by decide) n } _ _ _

theorem execSetDropTime_inRange {n : Nat} (step : execSetDropTime p tag n s = .next t) :
    s.settingsInRange → t.settingsInRange :=
  State.settingsInRange.asSetting step fun g kept =>
    State.settingsInRange.replyClamped (s := { g with dropTime := clamp 10 600 n })
      { kept with drop := clamp_mem (by decide) n } _ _ _

theorem execSetWatermark_inRange {n : Nat} (step : execSetWatermark p tag n s = .next t) :
    s.settingsInRange → t.settingsInRange :=
  State.settingsInRange.asSetting step fun g kept => by
    have marked : State.settingsInRange { g with watermark := clamp 0 65535 n } :=
      { kept with watermark := (clamp_mem (Nat.zero_le _) n).2 }
    exact State.settingsInRange.reads marked (.seq (ps := [.lowFlag, .out]) (State.reply_touches _ _ _ _)
      (State.testLow_touches _)) rfl

theorem execSetPoolSplit_inRange {pool length window leadIn ratio : Nat}
    (step : execSetPoolSplit p tag pool length window leadIn ratio s = .next t) :
    s.settingsInRange → t.settingsInRange :=
  State.settingsInRange.asSetting step fun g kept => by
    split
    · exact State.settingsInRange.reads.allows.reply _ _ _ _ kept
    · exact State.settingsInRange.reads.allows.reply _ _ _ _
        (kept.setPool _ (splitParameters_inRange _ length window leadIn ratio))

theorem execSetPoolMode_inRange {pool discipline reoffer : Nat}
    (step : execSetPoolMode p tag pool discipline reoffer s = .next t) : s.settingsInRange → t.settingsInRange :=
  State.settingsInRange.asSetting step fun g kept => by
    split
    · exact State.settingsInRange.reads.allows.reply _ _ _ _ (kept.setPool _ (kept.pools _))
    · exact State.settingsInRange.reads.allows.reply _ _ _ _ kept

end

theorem exec_settingsInRange {c : Instr} (no_reset : isReset c = false) (step : exec c s = .next t)
    (kept : s.settingsInRange) : t.settingsInRange := by
  have acts := exec_acts no_reset step
  cases c with
  | setFilter => exact execSetFilter_inRange step kept
  | setDefaultAction => exact execSetDefaultAction_inRange step kept
  | setPauseThreshold => exact execSetPauseThreshold_inRange step kept
  | setWatermark => exact execSetWatermark_inRange step kept
  | setPoolSplit => exact execSetPoolSplit_inRange step kept
  | setPoolMode => exact execSetPoolMode_inRange step kept
  | setOfferTimeout => exact execSetOfferTimeout_inRange step kept
  | setGrace => exact execSetGrace_inRange step kept
  | setDropTime => exact execSetDropTime_inRange step kept
  | _ => exact State.settingsInRange.reads.acts acts rfl kept

/-! ### Every step -/

/-- A well-kept state, law by law as the commands keep them. -/
theorem State.wellKept_iff : s.wellKept ↔ s.linksKept ∧ s.slotsKept ∧ s.standing ∧ s.clockKept ∧ s.stacksKept ∧
    s.settingsInRange := by
  constructor
  · intro kept
    exact ⟨⟨kept.links, kept.tables.clearances, kept.sizes.entries, kept.sizes.levels⟩,
      ⟨kept.tables.takes, kept.sizes.slots⟩,
      ⟨kept.tables.directory, kept.tables.store, kept.sizes.chunks, kept.sizes.log, kept.sizes.cues, kept.sizes.arrivals,
        kept.waiting⟩, kept.sizes.clock, kept.sizes.positions, kept.settings⟩
  · rintro ⟨links, slots, standing, clock, depths, settings⟩
    exact {
      tables := ⟨standing.directory, standing.store, slots.1, links.table.wf⟩
      sizes := ⟨slots.2, standing.chunks, standing.log, links.table.entries, links.table.levels, clock, standing.cues,
        standing.arrivals, depths⟩
      settings := settings
      links := links.lawful
      waiting := standing.waiting }

/-- The commands that wait may be fewer, and the pin at either level. -/
theorem State.wellKept.queue (kept : s.wellKept) {rest : List Instr} (waiting : ∀ i ∈ rest, i.wellFormed = true)
    (held : Bool) : State.wellKept { s with pending := rest, resetHeld := held } :=
  ⟨⟨kept.tables.directory, kept.tables.store, kept.tables.takes, kept.tables.clearances⟩,
    ⟨kept.sizes.slots, kept.sizes.chunks, kept.sizes.log, kept.sizes.entries, kept.sizes.levels, kept.sizes.clock,
      kept.sizes.cues, kept.sizes.arrivals, kept.sizes.positions⟩,
    ⟨kept.settings.filter, kept.settings.default, kept.settings.pause, kept.settings.watermark, kept.settings.pools,
      kept.settings.offer, kept.settings.grace, kept.settings.drop⟩,
    ⟨kept.links.each, kept.links.once, kept.links.level⟩, waiting⟩

theorem Link.reset_lawful : Link.reset.lawful := by
  constructor <;> simp [Link.reset, Link.isAttached, Link.takesFrames]

theorem State.port_reset (p : PortNo) : State.reset.port p = .reset := by revert p; decide

theorem State.reset_wellKept : State.reset.wellKept := by
  have link (p : PortNo) : State.reset.link p = .reset := by rw [State.link, State.port_reset]; rfl
  have ctx (p : PortNo) : State.reset.ctx p = none := by rw [State.ctx, State.port_reset]; rfl
  have pool (k : PoolId) : State.reset.pool k = .reset := by cases k <;> rfl
  have action : Action.reset.inRange := by simp [Action.inRange, Action.reset]
  have parameters : Pool.reset.inRange := by simp [Pool.inRange, Pool.reset]
  exact {
    tables := ⟨.nil, .nil, .nil, .nil⟩
    sizes := ⟨by simp [State.reset], by decide, by decide, by decide, by simp [State.reset], by decide, by decide,
      by decide, by simp [ctx]⟩
    settings := ⟨fun i low => by simpa [State.reset, FilterElem.reset] using action, action, by decide, by decide,
      fun k => pool k ▸ parameters, by decide, by decide, by decide⟩
    links := ⟨fun p => link p ▸ Link.reset_lawful, by simp [link, Link.reset, Link.isAttached],
      by simp [link, Link.reset, Link.isAttached]⟩
    waiting := by simp [State.reset] }

theorem exec_wellKept {c : Instr} (formed : c.wellFormed = true) (kept : s.wellKept) (step : exec c s = .next t) :
    t.wellKept := by
  by_cases reset : isReset c
  · have reset_to (held : Bool) : (s.resetTo held).wellKept := State.reset_wellKept.queue kept.waiting held
    cases c <;> simp [isReset] at reset <;> cases step <;> exact reset_to _
  · have no_reset : isReset c = false := by simpa using reset
    obtain ⟨links, slots, standing, clock, depths, settings⟩ := State.wellKept_iff.1 kept
    exact State.wellKept_iff.2 ⟨exec_linksKept no_reset step links, exec_slotsKept no_reset step slots,
      exec_standing no_reset step standing, exec_clockKept no_reset formed step clock,
      exec_stacksKept no_reset step depths, exec_settingsInRange no_reset step settings⟩

end

/-- Settles O5: law by law, over the commands that can touch what the law reads. -/
theorem stepKeepsTheStateWellKept : Obligations.StepKeepsTheStateWellKept := by
  intro s t kept stepped
  unfold step at stepped
  split at stepped
  · cases stepped; exact kept
  · next c rest pending =>
    have waiting (i : Instr) (here : i ∈ c :: rest) : i.wellFormed = true := kept.waiting i (pending ▸ here)
    exact exec_wellKept (waiting c (List.mem_cons_self ..))
      (kept.queue (fun i here => waiting i (List.mem_cons_of_mem _ here)) s.resetHeld) stepped

end Sys2Proof.Machine

/-!
PROOFS. Speech and its level (R123): what goes out on a port carries no speech but what the port may hear.
-/

namespace Sys2Proof.Machine

set_option Elab.async false

/-- The level at a time of a take is read off the cue lists. -/
theorem State.levelOf_of_cueLists {s t : State} (same : t.cueLists = s.cueLists) (take time : Nat) :
    t.levelOf take time = s.levelOf take time := by
  have read (u : State) : u.levelOf take time =
      match u.cueLists.find? (fun e => e.1 = take) with
      | some (_, cues, stop) =>
        highest (((spansOf cues .restrictBegin .restrictEnd stop).filter
          (fun x => x.start ≤ time && time < x.stop)).map (·.level))
      | none => 0 := by
    unfold State.levelOf State.take? State.cueLists
    rw [List.find?_map]
    cases found : u.takes.find? fun e => e.2.id = take with
    | none => simp [found]
    | some e => simp [found]; rfl
  rw [read, read, same]

/-- From `s` to `t` speech goes out only where `s` lets it be heard, and no port may hear more than before. -/
structure SpeaksAsAllowed (s t : State) : Prop where
  sent : ∃ l, t.out = s.out ++ l ∧
    ∀ p f take time, (p, f) ∈ l → f.speech? = some (take, time) → s.mayHear p take time
  hears : ∀ p take time, t.mayHear p take time → s.mayHear p take time

namespace SpeaksAsAllowed
variable {s t u : State} {ps : List Part}

theorem refl (s : State) : SpeaksAsAllowed s s := ⟨⟨[], by simp⟩, fun _ _ _ => id⟩

theorem trans (first : SpeaksAsAllowed s t) (second : SpeaksAsAllowed t u) : SpeaksAsAllowed s u := by
  obtain ⟨l, out, allowed⟩ := first.sent
  obtain ⟨l', out', allowed'⟩ := second.sent
  refine ⟨⟨l ++ l', by rw [out', out, List.append_assoc], fun p f take time sent speech => ?_⟩,
    fun p take time may => first.hears p take time (second.hears p take time may)⟩
  rcases List.mem_append.1 sent with sent | sent
  · exact allowed p f take time sent speech
  · exact first.hears p take time (allowed' p f take time sent speech)

/-- Where links, contexts, cue lists and the counters of speech stand, nothing changes what may be heard. -/
theorem of_touches (touched : Touches ps s t)
    (outside : [Part.link, .ctx, .cues, .speech].all (fun x => !ps.contains x) = true := by rfl) :
    SpeaksAsAllowed s t := by
  have part {x : Part} (read : x ∈ [Part.link, .ctx, .cues, .speech]) : x.same s t := touched.same_of_reads outside read
  have links : ∀ p, t.link p = s.link p := part (x := .link) (by simp)
  have contexts : ∀ p, t.ctx p = s.ctx p := part (x := .ctx) (by simp)
  have levels := State.levelOf_of_cueLists (part (x := .cues) (by simp))
  obtain ⟨l, out, silent⟩ := part (x := .speech) (by simp)
  refine ⟨⟨l, out, fun p f take time sent speech => ?_⟩, fun p take time may => ?_⟩
  · rw [silent _ sent] at speech; cases speech
  · simpa only [State.mayHear, links, contexts, levels] using may

theorem goodFrame (s : State) (p : PortNo) : SpeaksAsAllowed s (s.goodFrame p) := by
  have touched := s.goodFrame_touches p
  obtain ⟨l, out, silent⟩ := touched.get .speech rfl
  have levels := State.levelOf_of_cueLists (touched.get .cues rfl)
  have clearance (q : PortNo) : ((s.goodFrame p).link q).clearance = (s.link q).clearance := by
    rw [State.link_goodFrame]; split <;> simp_all
  refine ⟨⟨l, out, fun q f take time sent speech => ?_⟩, fun q take time may => ?_⟩
  · rw [silent _ sent] at speech; cases speech
  · simpa only [State.mayHear, clearance, State.ctx_goodFrame, levels] using may

/-- A context replaced hears as a reader only what the one before it did. -/
theorem setCtx (s : State) (p : PortNo) (new : Option Ctx)
    (reads : ∀ d, new = some d → d.kind = .reader → ∃ c, s.ctx p = some c ∧ c.kind = .reader ∧ c.take = d.take) :
    SpeaksAsAllowed s (s.setCtx p new) := by
  have touched := s.setCtx_touches' p new
  have out : (s.setCtx p new).out = s.out := touched.get .out rfl
  have levels := State.levelOf_of_cueLists (touched.get .cues rfl)
  refine ⟨⟨[], by simp, by simp⟩, fun q take time may => ?_⟩
  rcases may with low | ⟨d, found, kind, about⟩
  · left; rwa [levels, State.link_setCtx] at low
  · right
    rw [State.ctx_setCtx] at found
    split at found
    · next here =>
      obtain ⟨c, before, reader, same⟩ := reads d found kind
      exact ⟨c, here ▸ before, reader, same.trans about⟩
    · exact ⟨d, found, kind, about⟩

/-- A context that stays of its kind and over its take. -/
theorem reCtx {p : PortNo} {c : Ctx} (found : s.ctx p = some c) (d : Ctx) (kind : d.kind = c.kind)
    (take : d.take = c.take) : SpeaksAsAllowed s (s.setCtx p (some d)) :=
  setCtx s p _ fun e new reader => by cases new; exact ⟨c, found, kind ▸ reader, take.symm⟩

theorem updCtx (s : State) (p : PortNo) {f : Ctx → Ctx} (kind : ∀ c, (f c).kind = c.kind)
    (take : ∀ c, (f c).take = c.take) : SpeaksAsAllowed s (s.updCtx p f) := by
  unfold State.updCtx
  split
  · exact refl s
  · next c found => exact reCtx found _ (kind c) (take c)

/-- A frame whose speech the port may hear. -/
theorem emit (so_far : SpeaksAsAllowed s t) (p : PortNo) (f : Frame)
    (allowed : ∀ take time, f.speech? = some (take, time) → s.mayHear p take time) :
    SpeaksAsAllowed s (t.emit p f) := by
  obtain ⟨l, out, allowed'⟩ := so_far.sent
  have levels := State.levelOf_of_cueLists ((t.emit_any_touches p f).get .cues rfl)
  refine ⟨⟨l ++ t.sentTo p f, by simp [State.emit_eq, out], fun q g take time sent speech => ?_⟩,
    fun q take time may => so_far.hears q take time ?_⟩
  · rcases List.mem_append.1 sent with sent | sent
    · exact allowed' q g take time sent speech
    · obtain ⟨rfl, rfl⟩ : q = p ∧ g = f := by
        unfold State.sentTo at sent; split at sent <;> simp_all
      exact allowed take time speech
  · simpa only [State.mayHear, levels, State.link_emit, State.ctx_emit] using may

/-! ### Players -/

theorem askReads (s : State) (p : PortNo) : SpeaksAsAllowed s (s.askReads p) := by
  unfold State.askReads
  split
  · exact refl s
  · next c found =>
    split
    · exact (reCtx found { c with outstanding := true } rfl rfl).trans (of_touches (State.requestRead_touches _ _))
    · exact refl s

theorem markFrame (p : PortNo) (s : State) (time : Nat) : SpeaksAsAllowed s (State.markFrame p s time) := by
  unfold State.markFrame
  split
  · exact refl s
  · next c found =>
    split
    · have marked := reCtx found { c with stretch := true, silenced := c.silenced || c.kind = .exporting } rfl rfl
      dsimp only
      split
      · exact marked
      · exact marked.trans (of_touches (State.notify_touches _ _ _))
    · exact reCtx found { c with stretch := false } rfl rfl

theorem endIfDone (s : State) (p : PortNo) : SpeaksAsAllowed s (s.endIfDone p) := by
  unfold State.endIfDone
  split
  · exact refl s
  · next c found =>
    split
    · exact (reCtx found { c with mode := .stopped, pacing := .onData, readAhead := [] } rfl rfl).trans
        (of_touches (State.notify_touches _ _ _))
    · exact refl s

/-- A frame-time that is not above the port may be heard there. -/
theorem mayHear_of_not_above {p : PortNo} {c : Ctx} (found : s.ctx p = some c) {time : Nat}
    (below : s.isAbove p c time = false) : s.mayHear p c.take time := by
  simp only [State.isAbove, Bool.and_eq_false_iff, decide_eq_false_iff_not, not_lt, ne_eq, not_not] at below
  rcases below with low | reader
  · exact .inl low
  · exact .inr ⟨c, found, reader, rfl⟩

theorem sendPlayFrame {p : PortNo} {c : Ctx} (found : s.ctx p = some c) (r : ReadResult) :
    SpeaksAsAllowed s (s.sendPlayFrame p c r) := by
  refine (((markFrame p s c.cursor).emit p _ fun take time speech => ?_).trans (updCtx _ p ?_ ?_)).trans
    ((endIfDone _ p).trans (askReads _ p))
  · split at speech
    · next heard =>
      simp only [Frame.speech?, Option.some.injEq, Prod.mk.injEq] at speech
      obtain ⟨rfl, rfl⟩ := speech
      split at heard
      · cases heard
      · next below => exact mayHear_of_not_above found (by simpa using below)
    · cases speech
  · exact fun _ => rfl
  · exact fun _ => rfl

theorem sendIfCovered (s : State) (p : PortNo) : SpeaksAsAllowed s (s.sendIfCovered p) := by
  unfold State.sendIfCovered
  split
  · exact refl s
  · next c found =>
    have kind : c.resumed.kind = c.kind := by unfold Ctx.resumed; split <;> rfl
    have take : c.resumed.take = c.take := by unfold Ctx.resumed; split <;> rfl
    split
    · split
      · exact (reCtx found c.resumed kind take).trans (sendPlayFrame (by simp) _)
      · exact refl s
    · exact refl s

/-! ### Exports -/

theorem removeCtx (s : State) (p : PortNo) : SpeaksAsAllowed s (s.removeCtx p) := by
  unfold State.removeCtx
  split
  · exact refl s
  · exact (of_touches (s.withdrawRead_touches p)).trans ((setCtx _ p none (by simp)).trans
      (of_touches (State.countTake_touches _ _ _)))

theorem sendExportFrame {p : PortNo} {c : Ctx} (found : s.ctx p = some c) (r : ReadResult) :
    SpeaksAsAllowed s (s.sendExportFrame p c r) := by
  unfold State.sendExportFrame
  split
  · refine ((markFrame p s c.cursor).emit p _ fun take time speech => ?_).trans
      (updCtx _ p (fun _ => rfl) fun _ => rfl)
    split at speech
    · cases speech
    · next below =>
      simp only [Frame.speech?, Option.some.injEq, Prod.mk.injEq] at speech
      obtain ⟨rfl, rfl⟩ := speech
      exact mayHear_of_not_above found (by simpa using below)
  · have marked (l : List Nat) (u : State) : SpeaksAsAllowed u
        (l.foldl (fun s i => State.markFrame p s (c.cursor + 2 * i)) u) := by
      induction l generalizing u with
      | nil => exact refl u
      | cons i l ih => exact (markFrame p u _).trans (ih _)
    exact ((marked _ s).emit p _ (by simp [Frame.speech?])).trans (updCtx _ p (fun _ => rfl) fun _ => rfl)

theorem completeExport (s : State) (p : PortNo) (c : Ctx) : SpeaksAsAllowed s (s.completeExport p c) := by
  have marked (b : Bool) (u : State) : SpeaksAsAllowed u (if b then
      u.updTake c.take (fun t => { t with exported := true }) else u) := by
    split
    · exact of_touches (State.countTake_touches _ _ _)
    · exact refl u
  exact (of_touches (State.notify_touches _ _ _)).trans ((marked _ _).trans (removeCtx _ p))

theorem runExport (p : PortNo) (fuel : Nat) (s : State) : SpeaksAsAllowed s (State.runExport p fuel s) := by
  induction fuel generalizing s with
  | zero => exact refl s
  | succ fuel ih =>
    unfold State.runExport
    split
    · exact refl s
    · next c found =>
      split
      · exact completeExport s p c
      · split
        · exact (sendExportFrame found _).trans (ih _)
        · exact askReads s p

theorem continueExport (s : State) (p : PortNo) : SpeaksAsAllowed s (s.continueExport p) := by
  unfold State.continueExport
  split
  · exact refl s
  · exact runExport p _ s

theorem deliver (s : State) (p : PortNo) (r : ReadResult) (damaged : Bool) :
    SpeaksAsAllowed s (s.deliver p r damaged) := by
  unfold State.deliver
  split
  · exact refl s
  · next c found =>
    dsimp only
    split
    · exact (reCtx found _ (by rfl) (by rfl)).trans (continueExport _ p)
    · exact (reCtx found _ (by rfl) (by rfl)).trans ((sendIfCovered _ p).trans (askReads _ p))
    · exact (reCtx found _ (by rfl) (by rfl)).trans ((sendIfCovered _ p).trans (askReads _ p))

end SpeaksAsAllowed

/-! ### The commands that send speech -/

section
variable {s t : State} {p : PortNo}

theorem SpeaksAsAllowed.allows : AllowsReply SpeaksAsAllowed :=
  ⟨refl, fun g c r items => of_touches (g.reply_touches c r items)⟩

theorem Follows.speaksAsAllowed (follows : Follows SpeaksAsAllowed s t) : SpeaksAsAllowed s t := by
  obtain ⟨g, arrival, speaks⟩ := follows
  rcases arrival with rfl | ⟨p, -, rfl⟩
  · exact speaks
  · exact (SpeaksAsAllowed.goodFrame s p).trans speaks

theorem execPlay_speaksAsAllowed {tag : Byte} (step : execPlay p tag s = .next t) : SpeaksAsAllowed s t :=
  Follows.speaksAsAllowed <| State.running_acts step (refl := .refl) fun s =>
    s.asPlayer_acts _ (allows := SpeaksAsAllowed.allows) fun g x found => by
      have answered (u : State) (c : Cmd) (items : List Item) : SpeaksAsAllowed u (u.ok c items) :=
        SpeaksAsAllowed.allows.reply _ _ _ _
      split
      · split
        · exact (SpeaksAsAllowed.reCtx found x.started rfl rfl).trans ((answered _ _ _).trans
            ((SpeaksAsAllowed.askReads _ p).trans (SpeaksAsAllowed.sendIfCovered _ p)))
        · exact (answered _ _ _).trans (.of_touches (State.notify_touches _ _ _))
      · exact answered _ _ _

theorem execPlayFrameDue_speaksAsAllowed (step : execPlayFrameDue p s = .next t) : SpeaksAsAllowed s t :=
  State.running_touches step (refl := .refl) fun s => by
    split
    · exact .refl s
    · next x found =>
      split
      · split
        · exact .sendPlayFrame found _
        · exact (SpeaksAsAllowed.reCtx found { x with mode := .stalled } rfl rfl).trans
            ((SpeaksAsAllowed.of_touches (State.notify_touches _ _ _)).trans (.askReads _ p))
      · exact .refl s

theorem execExportBegin_speaksAsAllowed {tag : Byte} {take : Nat} (step : execExportBegin p tag take s = .next t) :
    SpeaksAsAllowed s t :=
  Follows.speaksAsAllowed <| State.running_acts step (refl := .refl) fun s =>
    s.asRole_acts _ _ (allows := SpeaksAsAllowed.allows) fun g => by
      split
      · exact SpeaksAsAllowed.allows.reply _ _ _ _
      · split
        · exact SpeaksAsAllowed.allows.reply _ _ _ _
        · split
          · exact SpeaksAsAllowed.allows.reply _ _ _ _
          · refine SpeaksAsAllowed.trans (t := State.createCtx ..) ?_
              ((SpeaksAsAllowed.allows.reply _ _ _ _).trans (.continueExport _ p))
            exact (SpeaksAsAllowed.setCtx g p _ (by simp)).trans (.of_touches (ps := [.damage, .takes])
              (.seq (State.setLastDamage_touches _ _ _) (State.countTake_touches _ _ _)))

theorem execReadTenureComplete_speaksAsAllowed {upsets : List Upset} {first : Bool}
    (step : execReadTenureComplete upsets first s = .next t) : SpeaksAsAllowed s t :=
  State.running_touches step (refl := .refl) fun s => by
    have granted (u : State) : SpeaksAsAllowed u u.endTenure.grant :=
      .of_touches (ps := [.arbiter]) (.seq u.endTenure_touches (State.grant_touches _))
    split
    · next r block _ stop recStart source stale _ =>
      have read := SpeaksAsAllowed.of_touches (s.readContent_touches r block recStart stop source (!stale) upsets)
      generalize s.readContent r block recStart stop source (!stale) upsets = content at read ⊢
      obtain ⟨u, recs, damaged⟩ := content
      refine read.trans ?_
      dsimp only
      split
      · exact granted _
      · split
        · exact (SpeaksAsAllowed.deliver _ _ _ _).trans (granted _)
        · exact (granted _).trans (.deliver _ _ _ _)
    · exact .refl s

end

/-- Settles O7: only a player's frame and an export's frame carry speech, and each is tested against the level
first. -/
theorem speechReachesOnlyClearedPorts : Obligations.SpeechReachesOnlyClearedPorts := by
  intro s t c step power_on hard pin
  have no_reset : isReset c = false := by cases c <;> simp_all [isReset]
  have silent (touched : Part.speech.same s t) : ∃ sent, t.out = s.out ++ sent ∧
      ∀ p f take time, (p, f) ∈ sent → f.speech? = some (take, time) → s.mayHear p take time := by
    obtain ⟨l, out, none⟩ := touched
    exact ⟨l, out, fun p f take time sent speech => by rw [none _ sent] at speech; cases speech⟩
  have touched := exec_touches no_reset step
  cases c with
  | play => exact (execPlay_speaksAsAllowed step).sent
  | playFrameDue => exact (execPlayFrameDue_speaksAsAllowed step).sent
  | exportBegin => exact (execExportBegin_speaksAsAllowed step).sent
  | readTenureComplete => exact (execReadTenureComplete_speaksAsAllowed step).sent
  | _ => exact silent (touched.get .speech rfl)

end Sys2Proof.Machine

/-!
PROOFS. Commands as bytes (R166, R167, 11.1, 11.3, 11.5): operand fields read back, and frames cross the line.
-/

namespace Sys2Proof.Machine

set_option Elab.async false

/-! ### Operand fields -/

theorem beBytes_length (w n : Nat) : (beBytes w n).length = w := by
  induction w with
  | zero => rfl
  | succ w ih => simp [beBytes, ih]

theorem foldl_beBytes (w n a : Nat) :
    (beBytes w n).foldl (fun n b => n * 256 + b.toNat) a = a * 256 ^ w + n % 256 ^ w := by
  induction w generalizing a with
  | zero => simp [beBytes, Nat.mod_one]
  | succ w ih =>
    have split : n % 256 ^ (w + 1) = n % 256 ^ w + 256 ^ w * (n / 256 ^ w % 256) := by rw [pow_succ, Nat.mod_mul]
    rw [beBytes, List.foldl_cons, ih, BitVec.toNat_ofNat, split]
    ring

/-- A number that fits its field reads back from its bytes (11.1). -/
theorem beNat_beBytes {w n : Nat} (fit : fits w n = true) : beNat (beBytes w n) = n := by
  rw [beNat, foldl_beBytes, Nat.zero_mul, Nat.zero_add, Nat.mod_eq_of_lt (of_decide_eq_true fit)]

theorem fieldBytes_length (l : List (Nat × Nat)) : (fieldBytes l).length = (l.map (·.1)).sum := by
  induction l with
  | nil => rfl
  | cons e l ih => simp [fieldBytes, beBytes_length, ih]

/-- One operand that fits its field reads back in front of others. -/
theorem fields_cons {w n : Nat} (fit : fits w n = true) (ws : List Nat) (l : List (Nat × Nat)) :
    fields (w :: ws) (fieldBytes ((w, n) :: l)) = (fields ws (fieldBytes l)).map (n :: ·) := by
  simp [fieldBytes, fields, beBytes_length, List.drop_left' (beBytes_length w n),
    List.take_left' (beBytes_length w n), beNat_beBytes fit]

theorem fields_nil (b : List Byte) : fields [] b = some [] := rfl

/-- Settles O8: command by command, each operand fits its field and reads back from it. -/
theorem operandBytesReadBack : Obligations.OperandBytesReadBack := by
  intro c p tag code operands formed port bytes
  cases c <;> cases bytes <;> cases port <;> refine ⟨by decide, by simp [fieldBytes_length], ?_⟩ <;>
    simp only [Instr.wellFormed, Bool.and_eq_true] at formed <;>
    simp only [commandOf, fields_cons, fields_nil, formed, Option.map_some]

/-! ### Frames on the line -/

/-- No start marker stands among escaped bytes (R166). -/
theorem marker_not_mem_escape (bs : List Byte) : 0x7E#8 ∉ escape bs := by
  have byte (b : Byte) : 0x7E#8 ∉ escapeByte b := by revert b; decide
  simp only [escape, List.mem_flatMap, not_exists, not_and]
  exact fun b _ => byte b

theorem unescape_plain {b : Byte} (marker : b ≠ 0x7E#8) (mark : b ≠ 0x7D#8) (bs : List Byte) :
    unescape (b :: bs) = (unescape bs).map (b :: ·) := by
  rw [unescape.eq_def]
  simp only [if_neg mark, if_neg marker]

/-- Escapes come off (R166). -/
theorem unescape_escape (bs : List Byte) : unescape (escape bs) = some bs := by
  induction bs with
  | nil => rfl
  | cons b bs ih =>
    rw [escape, List.flatMap_cons]
    by_cases marker : b = 0x7E#8
    · subst marker
      exact (congrArg (Option.map (0x7E#8 :: ·)) ih :)
    · by_cases mark : b = 0x7D#8
      · subst mark
        exact (congrArg (Option.map (0x7D#8 :: ·)) ih :)
      · have plain : escapeByte b = [b] := by simp [escapeByte, marker, mark]
        rw [plain, List.singleton_append, unescape_plain marker mark]
        exact congrArg (Option.map (b :: ·)) ih

theorem bytes16_length (w : BitVec 16) : (bytes16 w).length = 2 := rfl

theorem beBytes_one (n : Nat) : beBytes 1 n = [BitVec.ofNat 8 n] := by simp [beBytes]

theorem covered_cons (kind : Nat) (tag : Byte) (body : List Byte) :
    covered kind tag body = BitVec.ofNat 8 kind :: tag :: BitVec.ofNat 8 body.length :: body := by
  simp [covered, beBytes_one]

/-- A frame as it was sent is received as that frame (R145, R166). -/
theorem received_escape (p : PortNo) {kind : Nat} (tag : Byte) {body : List Byte} (kind_fits : kind < 256)
    (length_fits : body.length < 256) :
    received p (escape (covered kind tag body ++ bytes16 (crc (covered kind tag body)))) = frameOf p kind tag body := by
  have code (n : Nat) (fit : n < 256) : (BitVec.ofNat 8 n).toNat = n := by
    rw [BitVec.toNat_ofNat]; exact Nat.mod_eq_of_lt fit
  rw [received, unescape_escape]
  have shape (check : List Byte) : covered kind tag body ++ check =
      BitVec.ofNat 8 kind :: tag :: BitVec.ofNat 8 body.length :: (body ++ check) := by rw [covered_cons]; rfl
  rw [shape]
  simp [code, kind_fits, length_fits, bytes16_length]

theorem heard_append (p : PortNo) (start bytes : List Byte) (none_marks : 0x7E#8 ∉ bytes) (line : List LineEvent) :
    heard p (some start) (bytes.map .byte ++ line) = heard p (some (start ++ bytes)) line := by
  induction bytes generalizing start with
  | nil => simp
  | cons b bytes ih =>
    obtain ⟨here, rest⟩ := not_or.1 (mt List.mem_cons.2 none_marks)
    simp [heard, Ne.symm here, ih _ rest]

/-- A run of frames behind what the line holds so far, ended by a line break, is heard in order. -/
theorem heard_frames (p : PortNo) (current : Option (List Byte)) (frames : List (Nat × Byte × List Byte))
    (fit : ∀ f ∈ frames, f.1 < 256 ∧ f.2.2.length < 256) :
    heard p current ((frames.flatMap (fun f => wireOf f.1 f.2.1 f.2.2)).map .byte ++ [.lineBreak]) =
      ended p current ++ frames.map (fun f => frameOf p f.1 f.2.1 f.2.2) ++ [.lineBreak p] := by
  induction frames generalizing current with
  | nil => simp [heard]
  | cons f frames ih =>
    obtain ⟨⟨kind_fits, length_fits⟩, rest⟩ := List.forall_mem_cons.1 fit
    simp only [List.flatMap_cons, List.map_append, wireOf, List.map_cons, List.cons_append, List.append_assoc, heard,
      if_true, heard_append p [] _ (marker_not_mem_escape _), List.nil_append]
    have others := ih (some (escape (covered f.1 f.2.1 f.2.2 ++ bytes16 (crc (covered f.1 f.2.1 f.2.2))))) rest
    simp only [wireOf] at others
    rw [others]
    simp [ended, received_escape p f.2.1 kind_fits length_fits]

/-- Settles O9: escaping is undone, the check of a frame holds, and each start marker ends the frame before it. -/
theorem frameCrossesTheLine : Obligations.FrameCrossesTheLine :=
  ⟨fun p _ tag _ kind_fits length_fits =>
    ⟨_, rfl, marker_not_mem_escape _, received_escape p tag kind_fits length_fits⟩,
   fun p frames fit => heard_frames p none frames fit⟩

end Sys2Proof.Machine

/-!
PROOFS. The queue, the resets and the pin held (R165, 11.6).
-/

namespace Sys2Proof.Machine

set_option Elab.async false

/-- Settles O1. -/
theorem stepTakesFrontCommand : Obligations.StepTakesFrontCommand :=
  ⟨fun s c rest waiting => by rw [step, waiting], fun s none => by rw [step, none]⟩

/-- Settles O3: every command but a reset runs only in a part that is not held. -/
theorem heldPartTakesNothing : Obligations.HeldPartTakesNothing := by
  intro s c held power_on hard pin
  cases c with
  | powerOnReset => exact absurd rfl power_on
  | hardReset => exact absurd rfl hard
  | resetPinAsserted => exact absurd rfl pin
  | _ => exact congrArg Host.Outcome.next (if_pos held)

/-- Settles O4. -/
theorem resetMeetsTheLaws : Obligations.ResetMeetsTheLaws := ⟨State.reset_wellKept, State.reset_blocksKept⟩

theorem State.port_resetTo (s : State) (held : Bool) (p : PortNo) : (s.resetTo held).port p = .reset :=
  State.port_reset p

theorem State.pool_resetTo (s : State) (held : Bool) (k : PoolId) : (s.resetTo held).pool k = .reset := by
  cases k <;> rfl

/-- Settles O2: the state of the reset tables, with the queue and the pin. -/
theorem resetLeavesTheseValues : Obligations.ResetLeavesTheseValues := by
  intro s
  have port := s.port_resetTo s.resetHeld
  refine ⟨s.resetTo s.resetHeld, rfl, rfl, rfl, rfl, rfl, rfl, rfl, rfl, rfl, fun p => ?_, rfl, rfl, ?_, rfl,
    fun p => ?_, fun i low => ?_, rfl, rfl, rfl, ?_, rfl, rfl, rfl, rfl, rfl, rfl, rfl, rfl, rfl, rfl,
    s.pool_resetTo _, rfl, rfl, rfl, fun p => ?_, rfl, rfl, rfl, rfl, fun p => ?_, fun p => ?_, rfl⟩
  · rw [State.link, port]; rfl
  · simp [State.cueFree, State.resetTo, State.reset, State.usedCues, Config.cuePool]
  · rw [State.intake, port]; rfl
  · simp [State.resetTo, State.reset, FilterElem.reset, Action.reset]
  · simp [State.resetTo, State.reset, FreeList.toList, Config.blocks, List.range_eq_range']
  · rw [State.handoff, port]; rfl
  · rw [State.ctx, port]; rfl
  · rw [port]; rfl

end Sys2Proof.Machine

/-!
PROOFS. Rules of the take table and the cue pool (1.1, 1.3, 1.4): what a take becomes, where a cue stands, and that
cut tests move a take's split state alone.
-/

namespace Sys2Proof.Machine

set_option Elab.async false

/-! ### One take changed -/

/-- From `s` to `v` the take `n` becomes `u`, and every other take stands. -/
structure TakeBecomes (n : Nat) (s v : State) (u : Take) : Prop where
  here : v.take? n = some u
  others : ∀ m, m ≠ n → v.take? m = s.take? m

namespace TakeBecomes
variable {n : Nat} {s v w : State} {t u x : Take} {ps : List Part}

theorem trans (first : TakeBecomes n s v u) (second : TakeBecomes n v w x) : TakeBecomes n s w x :=
  ⟨second.here, fun m other => (second.others m other).trans (first.others m other)⟩

theorem of_touches (found : s.take? n = some t) (touched : Touches ps s v)
    (outside : ps.contains .takes = false := by rfl) : TakeBecomes n s v t :=
  ⟨(touched.take? outside n).trans found, fun m _ => touched.take? outside m⟩

/-- What follows touches no take. -/
theorem then_touches (so_far : TakeBecomes n s v u) (touched : Touches ps v w)
    (outside : ps.contains .takes = false := by rfl) : TakeBecomes n s w u :=
  so_far.trans (of_touches so_far.here touched outside)

theorem updTake (found : s.take? n = some t) (f : Take → Take) (id : ∀ t, (f t).id = t.id := by intro _; rfl) :
    TakeBecomes n s (s.updTake n f) (f t) :=
  ⟨State.take?_updTake_self found f id, fun _ other => State.take?_updTake_ne s other f id⟩

theorem placeCue (found : s.take? n = some t) (time : Nat) (kind : CueKind) (value : Option Nat) (origin : Origin) :
    TakeBecomes n s (s.placeCue n time kind value origin)
      { t with cues := s.withCue time kind value origin t.cues } := by
  unfold State.placeCue State.withCue
  split
  · next none => rw [none]; exact ⟨found, fun _ _ => rfl⟩
  · next i lowest =>
    rw [lowest]
    have placed := updTake (s := { s with cueArrival := min (s.cueArrival + 1) Config.top32 }) found (fun t => { t with
      cues := insertCue { index := i, time := time, kind := kind, arrival := s.cueArrival, value := value
                          origin := origin } t.cues })
    exact ⟨placed.here, placed.others⟩

theorem placeClosing (found : s.take? n = some t) (time : Nat) (kind : CueKind) (value : Option Nat)
    (origin : Origin) : TakeBecomes n s (s.placeClosing n time kind value origin)
      { t with cues := s.withCueIf s.admitsClosing time kind value origin t.cues } := by
  unfold State.placeClosing State.withCueIf
  split
  · exact placeCue found time kind value origin
  · exact ⟨found, fun _ _ => rfl⟩

theorem placeIfAdmitted (found : s.take? n = some t) (time : Nat) (kind : CueKind) (value : Option Nat)
    (origin : Origin) : TakeBecomes n s (s.placeIfAdmitted n time kind value origin)
      { t with cues := s.withCueIf s.admitsOrdinary time kind value origin t.cues } := by
  unfold State.placeIfAdmitted State.withCueIf
  split
  · exact placeCue found time kind value origin
  · exact ⟨found, fun _ _ => rfl⟩

/-- The cue list of the take is the one the state shows. -/
theorem cuesOf (becomes : TakeBecomes n s v u) : v.cuesOf n = u.cues := by
  rw [State.cuesOf, becomes.here]

end TakeBecomes

theorem State.cuesOf_of_take? {s : State} {n : Nat} {t : Take} (found : s.take? n = some t) : s.cuesOf n = t.cues := by
  rw [State.cuesOf, found]

/-! ### The cue lists and the pool -/

/-- Two states whose cue lists and cue arrival counter agree: a cue is placed alike in both. -/
structure SameCues (s t : State) : Prop where
  lists : t.cueLists = s.cueLists
  arrival : t.cueArrival = s.cueArrival

namespace SameCues
variable {s t u : State} {ps : List Part}

theorem refl (s : State) : SameCues s s := ⟨rfl, rfl⟩

theorem symm (same : SameCues s t) : SameCues t s := ⟨same.lists.symm, same.arrival.symm⟩

theorem trans (first : SameCues s t) (second : SameCues t u) : SameCues s u :=
  ⟨second.lists.trans first.lists, second.arrival.trans first.arrival⟩

theorem of_touches (touched : Touches ps s t)
    (outside : [Part.cues, .cueArrival].all (fun x => !ps.contains x) = true := by rfl) : SameCues s t :=
  ⟨touched.same_of_reads outside (x := .cues) (by simp), touched.same_of_reads outside (x := .cueArrival) (by simp)⟩

theorem usedCues (same : SameCues s t) : t.usedCues = s.usedCues := by
  have read (u : State) : u.usedCues = u.cueLists.flatMap (fun e => e.2.1.map (·.index)) := by
    simp [State.usedCues, State.cueLists, List.flatMap_map]
  rw [read, read, same.lists]

theorem cueFree (same : SameCues s t) : t.cueFree = s.cueFree := by rw [State.cueFree, same.usedCues]; rfl

theorem lowestCue (same : SameCues s t) : t.lowestCue = s.lowestCue := by rw [State.lowestCue, same.usedCues]; rfl

theorem admitsClosing (same : SameCues s t) : t.admitsClosing = s.admitsClosing := by
  rw [State.admitsClosing, same.cueFree]; rfl

theorem admitsOrdinary (same : SameCues s t) : t.admitsOrdinary = s.admitsOrdinary := by
  rw [State.admitsOrdinary, same.cueFree]; rfl

theorem admitsSpan (same : SameCues s t) : t.admitsSpan = s.admitsSpan := by
  rw [State.admitsSpan, same.cueFree]; rfl

theorem withCue (same : SameCues s t) : t.withCue = s.withCue := by
  funext time kind value origin cues
  rw [State.withCue, same.lowestCue, same.arrival]; rfl

theorem withCueIf (same : SameCues s t) : t.withCueIf = s.withCueIf := by
  funext admitted time kind value origin cues
  rw [State.withCueIf, same.withCue]; rfl

theorem cuesOf (same : SameCues s t) (n : Nat) : t.cuesOf n = s.cuesOf n := by
  have read (u : State) : u.cuesOf n = ((u.cueLists.find? (fun e => e.1 = n)).map (·.2.1)).getD [] := by
    unfold State.cuesOf State.take? State.cueLists
    rw [List.find?_map]
    cases found : u.takes.find? fun e => e.2.id = n with
    | none => simp [found]
    | some e => simp [found]
  rw [read, read, same.lists]

/-- The lists once a cue stands on the take `n`. -/
theorem cueLists_placeCue (s : State) (n time : Nat) (kind : CueKind) (value : Option Nat) (origin : Origin) :
    (s.placeCue n time kind value origin).cueLists =
      s.cueLists.map (fun e => if e.1 = n then (e.1, s.withCue time kind value origin e.2.1, e.2.2) else e) := by
  unfold State.placeCue State.withCue
  split
  · next none => simp [none]
  · next i lowest =>
    simp only [State.cueLists, State.takes_updTake, List.map_map]
    refine List.map_congr_left fun e _ => ?_
    simp only [Function.comp]
    split <;> simp [lowest]

theorem placeCue (same : SameCues s t) (n time : Nat) (kind : CueKind) (value : Option Nat) (origin : Origin) :
    SameCues (s.placeCue n time kind value origin) (t.placeCue n time kind value origin) := by
  refine ⟨by rw [cueLists_placeCue, cueLists_placeCue, same.lists, same.withCue], ?_⟩
  unfold State.placeCue
  rw [same.lowestCue]
  cases s.lowestCue with
  | none => exact same.arrival
  | some i => exact congrArg (fun a => min (a + 1) Config.top32) same.arrival

theorem placeClosing (same : SameCues s t) (n time : Nat) (kind : CueKind) (value : Option Nat) (origin : Origin) :
    SameCues (s.placeClosing n time kind value origin) (t.placeClosing n time kind value origin) := by
  unfold State.placeClosing
  rw [same.admitsClosing]
  split
  · exact same.placeCue n time kind value origin
  · exact same

theorem placeIfAdmitted (same : SameCues s t) (n time : Nat) (kind : CueKind) (value : Option Nat) (origin : Origin) :
    SameCues (s.placeIfAdmitted n time kind value origin) (t.placeIfAdmitted n time kind value origin) := by
  unfold State.placeIfAdmitted
  rw [same.admitsOrdinary]
  split
  · exact same.placeCue n time kind value origin
  · exact same

theorem gapPlaced (same : SameCues s t) {p : PortNo} (gap : (t.intake p).gap = (s.intake p).gap) (n stop : Nat) :
    SameCues (s.gapPlaced p n stop) (t.gapPlaced p n stop) := by
  unfold State.gapPlaced
  rw [gap]
  split
  · exact same
  · exact same.placeClosing _ _ _ _ _

theorem goodFrame (s : State) (p : PortNo) : SameCues s (s.goodFrame p) := of_touches (s.goodFrame_touches p)

end SameCues

/-! ### Gaps -/

theorem State.gapPlaced_touches (s : State) (p : PortNo) (n stop : Nat) :
    Touches [.takes, .cues, .cueArrival] s (s.gapPlaced p n stop) := by
  unfold State.gapPlaced
  split
  · exact .refl _ _
  · exact s.placeClosing_touches _ _ _ _ _

/-- The close of a gap places its cue and clears the tracker (R37). -/
theorem State.closeGap_eq (s : State) (p : PortNo) (n stop : Nat) : s.closeGap p n stop =
    if (s.intake p).gap.isNone then s
    else (s.gapPlaced p n stop).setIntake p { s.intake p with gap := none, starving := false } := by
  unfold State.closeGap State.gapPlaced
  cases (s.intake p).gap <;> rfl

theorem SameCues.closeGap (s : State) (p : PortNo) (n stop : Nat) :
    SameCues (s.gapPlaced p n stop) (s.closeGap p n stop) := by
  rw [State.closeGap_eq]
  split
  · next none => rw [State.gapPlaced, Option.isNone_iff_eq_none.1 none]; exact .refl s
  · exact .of_touches (State.setIntake_touches _ _ _)

theorem TakeBecomes.gapPlaced {s : State} {n : Nat} {t : Take} (found : s.take? n = some t) (p : PortNo) (stop : Nat) :
    TakeBecomes n s (s.gapPlaced p n stop) { t with cues := (s.gapPlaced p n stop).cuesOf n } := by
  unfold State.gapPlaced
  split
  · rw [State.cuesOf_of_take? found]; exact ⟨found, fun _ _ => rfl⟩
  · next noted _ =>
    have placed := placeClosing found noted .gap (some (stop - noted)) .auto
    rw [placed.cuesOf]
    exact placed

theorem TakeBecomes.closeGap {s : State} {n : Nat} {t : Take} (found : s.take? n = some t) (p : PortNo) (stop : Nat) :
    TakeBecomes n s (s.closeGap p n stop) { t with cues := (s.gapPlaced p n stop).cuesOf n } := by
  rw [State.closeGap_eq]
  split
  · next none =>
    rw [State.gapPlaced, Option.isNone_iff_eq_none.1 none, State.cuesOf_of_take? found]
    exact ⟨found, fun _ _ => rfl⟩
  · exact (gapPlaced found p stop).then_touches (State.setIntake_touches _ _ _)

theorem State.intake_closeGap (s : State) (p : PortNo) (n stop : Nat) (q : PortNo) :
    (s.closeGap p n stop).intake q = if q = p then { s.intake p with
      gap := none, starving := (s.intake p).starving && (s.intake p).gap.isNone } else s.intake q := by
  have placed := (s.gapPlaced_touches p n stop).get .intake rfl
  rw [State.closeGap_eq]
  split
  · next none =>
    have none := Option.isNone_iff_eq_none.1 none
    by_cases here : q = p
    · rw [if_pos here, here]
      simp only [none, Option.isNone_none, Bool.and_true]
      rw [← none]
    · rw [if_neg here]
  · next some =>
    rw [State.intake_setIntake]
    split
    · simp_all [Option.isSome_iff_ne_none]
    · exact placed q

/-! ### Cut tests -/

theorem Take.apartFromCuts_self (t : Take) : t.apartFromCuts t = t := rfl

theorem Take.apartFromCuts_trans {t u w : Take} (first : u.apartFromCuts t = t) (second : w.apartFromCuts u = u) :
    w.apartFromCuts t = t := by
  calc w.apartFromCuts t = (w.apartFromCuts u).apartFromCuts t := rfl
    _ = t := by rw [second, first]

/-- From `s` to `v` the take `n`, if it is there, changes in its split state alone, and no other take changes. -/
def CutsOnly (n : Nat) (s v : State) : Prop :=
  ∀ t, s.take? n = some t → ∃ u, TakeBecomes n s v u ∧ u.apartFromCuts t = t

namespace CutsOnly
variable {n : Nat} {s v w : State} {t u : Take} {ps : List Part}

theorem refl (n : Nat) (s : State) : CutsOnly n s s := fun t found => ⟨t, ⟨found, fun _ _ => rfl⟩, rfl⟩

theorem trans (first : CutsOnly n s v) (second : CutsOnly n v w) : CutsOnly n s w := fun t found => by
  obtain ⟨u, becomes, apart⟩ := first t found
  obtain ⟨x, becomes', apart'⟩ := second u becomes.here
  exact ⟨x, becomes.trans becomes', Take.apartFromCuts_trans apart apart'⟩

theorem of_touches (touched : Touches ps s v) (outside : ps.contains .takes = false := by rfl) : CutsOnly n s v :=
  fun t found => ⟨t, .of_touches found touched outside, rfl⟩

theorem of_takes (same : v.takes = s.takes) : CutsOnly n s v := fun t found =>
  ⟨t, ⟨by rwa [State.take?, same], fun m _ => by rw [State.take?, same]; rfl⟩, rfl⟩

theorem updTake (s : State) (n : Nat) (f : Take → Take) (apart : ∀ t, (f t).apartFromCuts t = t := by intro _; rfl)
    (id : ∀ t, (f t).id = t.id := by intro _; rfl) : CutsOnly n s (s.updTake n f) :=
  fun t found => ⟨f t, .updTake found f id, apart t⟩

theorem then_updTake (first : CutsOnly n s v) (f : Take → Take) (apart : ∀ t, (f t).apartFromCuts t = t)
    (id : ∀ t, (f t).id = t.id) : CutsOnly n s (v.updTake n f) := first.trans (updTake v n f apart id)

theorem makeChunk (s : State) (t : Take) (start stop playStart : Nat) (final : Bool) :
    CutsOnly t.id s (s.makeChunk t start stop playStart final) := by
  have created : (s.createChunk (s.newChunk t start stop playStart final)).takes = s.takes :=
    (State.offerPassOf_touches _ _).get .takes rfl
  refine trans (of_takes (v := { s.createChunk (s.newChunk t start stop playStart final) with
    arrivalSeq := (s.createChunk (s.newChunk t start stop playStart final)).arrivalSeq + 1 }) created) ?_
  unfold State.makeChunk
  exact updTake _ _ _

theorem deferCut (s : State) (t : Take) (nominal : Nat) : CutsOnly t.id s (s.deferCut t nominal) := by
  unfold State.deferCut
  split
  · exact refl _ _
  · refine trans ?_ ((of_touches (State.deferral_touches _ _)).trans (of_touches (State.notifyDesks_touches _ _)))
    exact updTake _ _ _

theorem rollingCuts (n : Nat) (service : Bool) (fuel : Nat) (s : State) :
    CutsOnly n s (State.rollingCuts n service fuel s) := by
  induction fuel generalizing s with
  | zero => exact refl n s
  | succ fuel ih =>
    unfold State.rollingCuts
    split
    · exact refl n s
    · next t found =>
      obtain rfl := State.take?_id found
      split
      · split
        · exact (makeChunk s t _ _ _ _).trans (ih _)
        · exact deferCut s t _
      · exact refl _ s

theorem finalChunk (s : State) (t : Take) (service : Bool) (start playStart : Nat) :
    CutsOnly t.id s (s.finalChunk t service start playStart) := by
  unfold State.finalChunk
  split
  · exact makeChunk s t _ _ _ _
  · exact deferCut s t _

theorem mergeTail (s : State) (t : Take) (last : Chunk) : CutsOnly t.id s (s.mergeTail t last) := by
  unfold State.mergeTail
  dsimp only
  refine then_updTake ?_ _ ?_ ?_
  · exact of_touches (State.updChunk_touches _ _ _)
  · exact fun _ => rfl
  · exact fun _ => rfl

theorem finalSplit (s : State) (t : Take) (service : Bool) : CutsOnly t.id s (s.finalSplit t service) := by
  unfold State.finalSplit
  dsimp only
  split
  · exact finalChunk s t _ _ _
  · split
    · exact finalChunk s t _ _ _
    · split
      · split
        · exact mergeTail s t _
        · exact finalChunk s t _ _ _
      · exact finalChunk s t _ _ _

theorem cutTest (n : Nat) (service : Bool) (s : State) : CutsOnly n s (s.cutTest n service) := by
  have final (u : State) : CutsOnly n u (u.finalStep n service) := by
    unfold State.finalStep
    split
    · exact refl n u
    · next t found =>
      obtain rfl := State.take?_id found
      split
      · exact finalSplit u t service
      · exact refl _ u
  unfold State.cutTest
  split
  · exact refl n s
  · split
    · exact refl n s
    · exact (rollingCuts n service _ s).trans (final _)

theorem signalCue (n time : Nat) (kind : CueKind) (s : State) : CutsOnly n s (s.signalCue n time kind) := by
  unfold State.signalCue
  split
  · exact refl n s
  · split
    · exact cutTest n false s
    · exact refl n s

end CutsOnly

end Sys2Proof.Machine

/-!
PROOFS. Queues, ready lists and the offer pass (5.2 to 5.4): what a queue holds and in which order, and what a pass
may change of a chunk, of a ready list and of a port's offer.
-/

namespace Sys2Proof.Machine

set_option Elab.async false

/-! ### Queues -/

theorem insertChunk_perm (d : Discipline) (c : Chunk) (l : List Chunk) : (insertChunk d c l).Perm (c :: l) := by
  induction l with
  | nil => exact .refl _
  | cons y l ih =>
    unfold insertChunk
    split
    · exact .refl _
    · exact (ih.cons y).trans (.swap c y l)

theorem foldl_insertChunk_perm (d : Discipline) (cs acc : List Chunk) :
    (cs.foldl (fun acc c => insertChunk d c acc) acc).Perm (cs ++ acc) := by
  induction cs generalizing acc with
  | nil => exact .refl _
  | cons c cs ih => exact (ih _).trans (((insertChunk_perm d c acc).append_left cs).trans List.perm_middle)

theorem sortChunks_perm (d : Discipline) (cs : List Chunk) : (sortChunks d cs).Perm cs := by
  have permuted := foldl_insertChunk_perm d cs []
  rwa [List.append_nil] at permuted

theorem Discipline.before_trans {d : Discipline} {x y z : Chunk} (first : d.before x y = true)
    (second : d.before y z = true) : d.before x z = true := by
  cases d <;> simp only [Discipline.before, Bool.or_eq_true, Bool.and_eq_true, decide_eq_true_eq] at * <;> omega

theorem Discipline.not_before_of_before {d : Discipline} {x y : Chunk} (before : d.before x y = true) :
    d.before y x = false := by
  cases d <;> simp only [Discipline.before, Bool.or_eq_true, Bool.and_eq_true, Bool.or_eq_false_iff,
    Bool.and_eq_false_iff, decide_eq_true_eq, decide_eq_false_iff_not] at * <;> omega

/-- A list in the order of a discipline: none stands before an earlier one. -/
def Discipline.orders (d : Discipline) (l : List Chunk) : Prop := l.Pairwise (fun x y => d.before y x = false)

theorem Discipline.orders_insertChunk {d : Discipline} {l : List Chunk} (ordered : d.orders l) (c : Chunk) :
    d.orders (insertChunk d c l) := by
  induction l with
  | nil => exact List.pairwise_singleton _ _
  | cons y l ih =>
    obtain ⟨after, rest⟩ := List.pairwise_cons.1 ordered
    unfold insertChunk
    split
    · next before =>
      refine List.pairwise_cons.2 ⟨fun z listed => ?_, ordered⟩
      rcases List.mem_cons.1 listed with rfl | later
      · exact Discipline.not_before_of_before before
      · cases early : d.before z c with
        | false => rfl
        | true => exact absurd (Discipline.before_trans early before) (by simp [after z later])
    · next late =>
      refine List.pairwise_cons.2 ⟨fun z listed => ?_, ih rest⟩
      rcases List.mem_cons.1 ((insertChunk_perm d c l).mem_iff.1 listed) with rfl | later
      · simpa using late
      · exact after z later

theorem Discipline.orders_sortChunks (d : Discipline) (cs : List Chunk) : d.orders (sortChunks d cs) := by
  have kept (cs acc : List Chunk) (ordered : d.orders acc) :
      d.orders (cs.foldl (fun acc c => insertChunk d c acc) acc) := by
    induction cs generalizing acc with
    | nil => exact ordered
    | cons c cs ih => exact ih _ (orders_insertChunk ordered c)
  exact kept cs [] .nil

/-- Settles O45: insertion sort keeps what it sorts, and orders it. -/
theorem queueHoldsTheWaitingInOrder : Obligations.QueueHoldsTheWaitingInOrder := by
  intro s k
  have ordered := (s.pool k).discipline.orders_sortChunks (s.chunks.filter fun c => c.inQueue k)
  refine ⟨sortChunks_perm _ _, fun arrival => ?_, fun urgency => ?_⟩
  · refine List.Pairwise.imp ?_ ordered
    simp [arrival, Discipline.before]
  · refine List.Pairwise.imp (fun {x y} late => ?_) ordered
    simp only [urgency, Discipline.before, Bool.or_eq_false_iff, Bool.and_eq_false_iff,
      decide_eq_false_iff_not] at late
    omega

theorem State.mem_queue {s : State} {k : PoolId} {c : Chunk} :
    c ∈ s.queue k ↔ c ∈ s.chunks ∧ c.pool = some k ∧ (c.state = .pending ∨ c.state = .offered) := by
  rw [State.queue, (sortChunks_perm _ _).mem_iff, List.mem_filter]
  simp [Chunk.inQueue]

/-! ### Ready lists -/

@[simp] theorem State.ready_leaveReady (s : State) (p : PortNo) (k : PoolId) :
    ((s.leaveReady p).pool k).ready = (s.pool k).ready.filter (· ≠ p) := by
  cases k <;> rfl

theorem State.ready_joinReady (s : State) (p : PortNo) (k j : PoolId) : ((s.joinReady p k).pool j).ready =
    if j = k then (s.pool k).ready.filter (· ≠ p) ++ [p] else (s.pool j).ready.filter (· ≠ p) := by
  simp only [State.joinReady, State.pool_setPool]
  split <;> simp

/-! ### One offer -/

/-- The chunk as an offer to a port leaves it (R84). -/
def Chunk.offeredTo (c : Chunk) (p : PortNo) : Chunk := { c with state := .offered, offeree := some p }

/-- The state an offer leaves, but for the frame it sends. -/
theorem State.makeOffer_reads (s : State) (p : PortNo) (n : ChunkName) :
    (s.makeOffer p n).chunks = s.chunks.map (fun c => if c.name = n then c.offeredTo p else c) ∧
    (∀ k, ((s.makeOffer p n).pool k).ready = (s.pool k).ready.filter (· ≠ p)) ∧
    ∀ q, (s.makeOffer p n).handoff q =
      let h := if (s.handoff q).reservation = some n then { s.handoff q with reservation := none } else s.handoff q
      if q = p then { h with offer := some { chunk := n, timeout := s.offerTimeout }, lapsed := none } else h := by
  unfold State.makeOffer
  have sent (u : State) := State.sendOffer_touches u p n
  refine ⟨?_, fun k => ?_, fun q => ?_⟩
  · exact (sent _).get .chunks rfl
  · refine (congrArg (fun ps : Pools => (ps.get k).ready) ((sent _).get .pools rfl)).trans ?_
    exact s.ready_leaveReady p k
  · refine ((sent _).get .handoff rfl q).trans ?_
    by_cases here : q = p
    · simp [here]; rfl
    · simp [here]; rfl

/-! ### The pass -/

/-- What a pass to ports of `ready` may make of a chunk. -/
def Chunk.PickedAs (ready : List PortNo) (c d : Chunk) : Prop := d = c ∨ ∃ q ∈ ready, d = c.offeredTo q

theorem Chunk.PickedAs.unpicked {ready : List PortNo} {c d : Chunk} (picked : c.PickedAs ready d)
    (waits : c.state = .pending) (alone : c.offeree = none) : d.unpicked = c := by
  obtain rfl | ⟨q, -, rfl⟩ := picked
  · simp [Chunk.unpicked, waits]
  · simp only [Chunk.unpicked, Chunk.offeredTo, if_true]
    rw [← waits, ← alone]

/-- A chunk of that name waits PENDING. -/
def State.hasPending (s : State) (n : ChunkName) : Prop := ∃ e ∈ s.chunks, e.name = n ∧ e.state = .pending

/-- From `s` to `v` nothing but offers to ports of `ready` is made: chunks are picked, ready lists shrink, other ports
keep their offers, and no reservation is made. -/
structure OffersOnly (ready : List PortNo) (s v : State) : Prop where
  chunks : List.Forall₂ (fun c d => d = c ∨ (s.hasPending c.name ∧ ∃ q ∈ ready, d = c.offeredTo q)) s.chunks v.chunks
  lists : ∀ k, (v.pool k).ready.Sublist (s.pool k).ready
  others : ∀ q, q ∉ ready → v.handoff q = s.handoff q ∨ v.handoff q = { s.handoff q with reservation := none }
  reservations : ∀ q n, (v.handoff q).reservation = some n → (s.handoff q).reservation = some n

namespace OffersOnly
variable {ready : List PortNo} {s v : State} {n : ChunkName}

theorem refl (ready : List PortNo) (s : State) : OffersOnly ready s s where
  chunks := List.forall₂_same.2 fun _ _ => .inl rfl
  lists := fun _ => .refl _
  others := fun _ _ => .inl rfl
  reservations := fun _ _ => id

theorem makeOffer (so_far : OffersOnly ready s v) {p : PortNo} (listed : p ∈ ready) (waits : s.hasPending n) :
    OffersOnly ready s (v.makeOffer p n) := by
  obtain ⟨chunks, lists, handoff⟩ := v.makeOffer_reads p n
  refine ⟨?_, fun k => ?_, fun q outside => ?_, fun q m => ?_⟩
  · rw [chunks, List.forall₂_map_right_iff]
    refine so_far.chunks.imp fun c d => ?_
    rintro (rfl | ⟨pending, q, among, rfl⟩)
    · split
      · next named => exact .inr ⟨named ▸ waits, p, listed, rfl⟩
      · exact .inl rfl
    · refine .inr ⟨pending, ?_⟩
      split
      · exact ⟨p, listed, rfl⟩
      · exact ⟨q, among, rfl⟩
  · rw [lists]; exact List.filter_sublist.trans (so_far.lists k)
  · have apart : q ≠ p := fun same => outside (same ▸ listed)
    rw [handoff, if_neg apart]
    rcases so_far.others q outside with same | same <;> rw [same] <;> split <;> simp
  · rw [handoff]
    intro reserved
    refine so_far.reservations q m ?_
    revert reserved
    dsimp only
    split <;> split <;> simp_all

theorem offerOne (so_far : OffersOnly ready s v) (k : PoolId) {c : Chunk} (waits : s.hasPending c.name)
    (within : ∀ p ∈ (v.pool k).ready, p ∈ ready) : OffersOnly ready s (State.offerOne k v c) := by
  unfold State.offerOne
  split
  · next p paired => exact so_far.makeOffer (within p (List.mem_of_find?_eq_some paired)) waits
  · exact so_far

theorem foldl (so_far : OffersOnly ready s v) (k : PoolId) (walk : List Chunk) (waits : ∀ c ∈ walk, s.hasPending c.name)
    (within : ∀ p ∈ (s.pool k).ready, p ∈ ready) : OffersOnly ready s (walk.foldl (State.offerOne k) v) := by
  induction walk generalizing v with
  | nil => exact so_far
  | cons c walk ih =>
    exact ih (so_far.offerOne k (waits c List.mem_cons_self) fun p listed =>
        within p ((so_far.lists k).subset listed))
      fun e listed => waits e (List.mem_cons_of_mem c listed)

theorem offerPass (s : State) (k : PoolId) : OffersOnly (s.pool k).ready s (s.offerPass k) := by
  refine (refl _ s).foldl k _ (fun c walked => ?_) fun _ => id
  obtain ⟨queued, pending⟩ := List.mem_filter.1 walked
  exact ⟨c, (State.mem_queue.1 queued).1, rfl, by simp_all⟩

/-- A chunk after the offers. -/
theorem chunk? (only : OffersOnly ready s v) {c : Chunk} (found : s.chunk? n = some c) :
    ∃ d, v.chunk? n = some d ∧ c.PickedAs ready d ∧ (¬ s.hasPending n → d = c) := by
  have related := only.chunks
  unfold State.chunk? at found ⊢
  revert found
  generalize s.chunks = before at related
  generalize v.chunks = after at related
  induction related with
  | nil => simp
  | @cons a b before after step _ ih =>
    have name : b.name = a.name := by rcases step with rfl | ⟨-, q, -, rfl⟩ <;> rfl
    by_cases here : a.name = n
    · rw [List.find?_cons_of_pos (by simpa using here), List.find?_cons_of_pos (by simpa [name] using here)]
      rintro ⟨⟩
      refine ⟨b, rfl, step.imp_right (·.2), fun none => ?_⟩
      rcases step with same | ⟨waits, -⟩
      · exact same
      · exact absurd (here ▸ waits) none
    · rw [List.find?_cons_of_neg (by simpa using here), List.find?_cons_of_neg (by simpa [name] using here)]
      exact ih

/-- A chunk stands where none of its name waits. -/
theorem chunk?_stands (only : OffersOnly ready s v) {c : Chunk} (found : s.chunk? n = some c)
    (none : ¬ s.hasPending n) : v.chunk? n = some c := by
  obtain ⟨d, found', -, same⟩ := only.chunk? found
  rwa [same none] at found'

/-- Each chunk after the offers comes from one before them. -/
theorem chunk_before (only : OffersOnly ready s v) {d : Chunk} (listed : d ∈ v.chunks) :
    ∃ c ∈ s.chunks, c.PickedAs ready d := by
  have related := only.chunks
  revert listed
  generalize s.chunks = before at related
  generalize v.chunks = after at related
  induction related with
  | nil => simp
  | @cons a b before after step _ ih =>
    intro listed
    rcases List.mem_cons.1 listed with rfl | listed
    · exact ⟨a, List.mem_cons_self, step.imp_right (·.2)⟩
    · obtain ⟨c, among, picked⟩ := ih listed
      exact ⟨c, List.mem_cons_of_mem a among, picked⟩

theorem chunks_length (only : OffersOnly ready s v) : v.chunks.length = s.chunks.length :=
  only.chunks.length_eq.symm

end OffersOnly

/-- The ready list of a pool that may be absent. -/
def State.readyOf (s : State) (k : Option PoolId) : List PortNo := (k.map fun k => (s.pool k).ready).getD []

theorem OffersOnly.offerPassOf (s : State) (k : Option PoolId) : OffersOnly (s.readyOf k) s (s.offerPass? k) := by
  cases k with
  | none => exact .refl _ s
  | some k => exact .offerPass s k

/-- A pass without a PENDING chunk in its queue does nothing. -/
theorem State.offerPass_stands {s : State} {k : PoolId} (none : ∀ c ∈ s.queue k, c.state ≠ .pending) :
    s.offerPass k = s := by
  have empty : (s.queue k).filter (fun c => c.state = .pending && !c.noOffer) = [] :=
    List.filter_eq_nil_iff.2 fun c queued => by simp [none c queued]
  rw [State.offerPass, empty]
  rfl

/-- After a change that leaves none of its name PENDING, no chunk of a name waits. -/
theorem State.not_hasPending_updChunk (s : State) (n : ChunkName) (f : Chunk → Chunk)
    (off : ∀ c, (f c).state ≠ .pending) : ¬ (s.updChunk n f).hasPending n := by
  rintro ⟨e, listed, name, waits⟩
  obtain ⟨c, -, rfl⟩ := List.mem_map.1 listed
  revert name waits
  split
  · exact fun _ waits => absurd waits (off c)
  · next other => exact fun name _ => absurd name other

/-- Where names are distinct, a name waits only as the chunk found by it. -/
theorem State.not_hasPending_of_nodup {s : State} {n : ChunkName} {c : Chunk} (names : (s.chunks.map (·.name)).Nodup)
    (found : s.chunk? n = some c) (off : c.state ≠ .pending) : ¬ s.hasPending n := by
  rintro ⟨e, listed, name, waits⟩
  have same := List.inj_on_of_nodup_map names listed (List.mem_of_find?_eq_some found)
    (name.trans (State.chunk?_name found).symm)
  exact off (same ▸ waits)

/-! ### No pair is left -/

/-- What one step of a pass that began at `s` keeps: a port that is ready still was ready then, and an offer that was
not there then is of a PENDING chunk of the queue to a port it could be offered to. -/
structure PassLaw (s : State) (k : PoolId) (u : State) : Prop where
  ready : ∀ p ∈ (u.pool k).ready, p ∈ (s.pool k).ready
  link : ∀ p, u.link p = s.link p
  timeout : u.offerTimeout = s.offerTimeout
  offers : ∀ p o, (u.handoff p).offer = some o → (s.handoff p).offer = some o ∨
    (o.timeout = s.offerTimeout ∧ p ∈ (s.pool k).ready ∧
      ∃ c ∈ s.queue k, c.name = o.chunk ∧ c.state = .pending ∧ c.noOffer = false ∧
        c.required ≤ (s.link p).clearance ∧ c.lastDecliner ≠ some p)

/-- A chunk that a pass has left PENDING. -/
def State.passedOver (u : State) (k : PoolId) (c : Chunk) : Prop :=
  c ∈ u.chunks → c.state = .pending →
    ∀ p ∈ (u.pool k).ready, (u.link p).clearance < c.required ∨ c.lastDecliner = some p

section
variable {s u : State} {k : PoolId} {c : Chunk}

theorem State.pairPort_spec {p : PortNo} (paired : u.pairPort k c = some p) :
    p ∈ (u.pool k).ready ∧ c.required ≤ (u.link p).clearance ∧ c.lastDecliner ≠ some p := by
  have fits := List.find?_some paired
  exact ⟨List.mem_of_find?_eq_some paired, by simp_all⟩

theorem PassLaw.offerOne (law : PassLaw s k u) (queued : c ∈ s.queue k) (waits : c.state = .pending)
    (offered : c.noOffer = false) : PassLaw s k (State.offerOne k u c) := by
  unfold State.offerOne
  split
  · next p paired =>
    obtain ⟨ready, cleared, willing⟩ := State.pairPort_spec paired
    obtain ⟨-, lists, handoff⟩ := u.makeOffer_reads p c.name
    have touched := u.makeOffer_touches p c.name
    refine ⟨fun q listed => ?_, fun q => (touched.link rfl q).trans (law.link q),
      (touched.get .offerTimeout rfl).trans law.timeout, fun q o => ?_⟩
    · rw [lists] at listed
      exact law.ready q (List.mem_filter.1 listed).1
    · rw [handoff]
      by_cases here : q = p
      · subst here
        simp only [if_true]
        rintro ⟨⟩
        exact .inr ⟨law.timeout, law.ready q ready, c, queued, rfl, waits, offered, law.link q ▸ cleared, willing⟩
      · intro found
        refine law.offers q o ?_
        revert found
        simp only [if_neg here]
        split <;> exact id
  · exact law

theorem State.mem_chunks_makeOffer {p : PortNo} {n : ChunkName} {e : Chunk} (listed : e ∈ (u.makeOffer p n).chunks)
    (waits : e.state = .pending) : e ∈ u.chunks ∧ e.name ≠ n := by
  rw [(u.makeOffer_reads p n).1] at listed
  obtain ⟨d, among, rfl⟩ := List.mem_map.1 listed
  revert waits
  split
  · rintro ⟨⟩
  · next other => exact fun _ => ⟨among, other⟩

/-- A chunk passed over stays so: ready lists shrink. -/
theorem State.passedOver.offerOne {e : Chunk} (passed : u.passedOver k e) :
    State.passedOver (State.offerOne k u c) k e := by
  unfold State.offerOne
  split
  · next p paired =>
    intro listed waits q ready
    rw [(u.makeOffer_touches p c.name).link]
    rw [(u.makeOffer_reads p c.name).2.1] at ready
    exact passed (State.mem_chunks_makeOffer listed waits).1 waits q (List.mem_filter.1 ready).1
  · exact passed

/-- The chunk of a step is passed over, or is no longer PENDING. -/
theorem State.passedOver_self : State.passedOver (State.offerOne k u c) k c := by
  unfold State.offerOne
  split
  · exact fun listed waits => absurd rfl (State.mem_chunks_makeOffer listed waits).2
  · next none =>
    intro _ _ p ready
    have unfit := List.find?_eq_none.1 none p ready
    by_contra fit
    exact unfit (by simpa [not_or] using fit)

theorem passWalk (law : PassLaw s k u) (walk : List Chunk) (done : List Chunk)
    (walked : ∀ c ∈ walk, c ∈ s.queue k ∧ c.state = .pending ∧ c.noOffer = false)
    (passed : ∀ c ∈ done, u.passedOver k c) :
    PassLaw s k (walk.foldl (State.offerOne k) u) ∧
      ∀ c, c ∈ done ∨ c ∈ walk → (walk.foldl (State.offerOne k) u).passedOver k c := by
  induction walk generalizing u done with
  | nil => exact ⟨law, fun c => by simpa using passed c⟩
  | cons c walk ih =>
    obtain ⟨queued, waits, offered⟩ := walked c List.mem_cons_self
    obtain ⟨law', passed'⟩ := ih (law.offerOne queued waits offered) (c :: done)
      (fun e listed => walked e (List.mem_cons_of_mem c listed)) fun e listed => by
        rcases List.mem_cons.1 listed with rfl | listed
        · exact State.passedOver_self
        · exact (passed e listed).offerOne
    exact ⟨law', fun e listed => passed' e (by simp only [List.mem_cons] at listed ⊢; tauto)⟩

end

/-- Settles O44: the walk offers or passes over each of its chunks. -/
theorem offerPassLeavesNoPair : Obligations.OfferPassLeavesNoPair := by
  intro s k
  obtain ⟨law, passed⟩ := passWalk (s := s) (k := k) (u := s) ⟨fun _ => id, fun _ => rfl, rfl, fun _ _ => .inl⟩
    ((s.queue k).filter fun c => c.state = .pending && !c.noOffer) []
    (fun c listed => by simpa using listed) (by simp)
  refine ⟨fun c queued waits offered p ready => ?_, law.offers⟩
  obtain ⟨listed, pool, -⟩ := State.mem_queue.1 queued
  refine passed c (.inr (List.mem_filter.2 ⟨State.mem_queue.2 ⟨?_, pool, .inl waits⟩, by simp [waits, offered]⟩))
    listed waits p ready
  obtain ⟨d, before, same | ⟨q, -, picked⟩⟩ := (OffersOnly.offerPass s k).chunk_before listed
  · exact same ▸ before
  · rw [picked] at waits; cases waits

end Sys2Proof.Machine

/-!
PROOFS. What a pause, a quiet and a loss leave of a take, a context and a hold (1.2, 6.5, 8.4, 9.5).
-/

namespace Sys2Proof.Machine

set_option Elab.async false

section
variable {s v w : State} {p q : PortNo} {n : ChunkName} {t u : Take} {x : Ctx} {c : Chunk}

/-! ### Contexts removed and stopped -/

theorem State.ctx_removeCtx (s : State) (p q : PortNo) :
    (s.removeCtx p).ctx q = if q = p then none else s.ctx q := by
  unfold State.removeCtx
  split
  · next none => split <;> simp_all
  · simp

theorem TakeBecomes.removeCtx (ctx : s.ctx p = some x) (found : s.take? x.take = some t) :
    TakeBecomes x.take s (s.removeCtx p) { t with readers := t.readers - 1 } := by
  unfold State.removeCtx
  rw [ctx]
  have counted := updTake (s := (s.withdrawRead p).setCtx p none) found (fun t => { t with readers := t.readers - 1 })
  exact ⟨counted.here, counted.others⟩

/-- A context stopped: its read is withdrawn, and the rest of it stands (R119, R125). -/
def Ctx.halted (x : Ctx) : Ctx :=
  if x.mode = .stopped then x else { x with mode := .stopped, pacing := .onData, outstanding := false }

theorem State.ctx_stopCtx (s : State) (p q : PortNo) :
    (s.stopCtx p).ctx q = if q = p then (s.ctx p).map Ctx.halted else s.ctx q := by
  unfold State.stopCtx
  split
  · next none => split <;> simp_all
  · next y found =>
    rw [found, Option.map_some]
    unfold Ctx.halted
    split
    · split <;> simp_all
    · simp only [State.dropRead, found, State.updCtx, State.ctx_setCtx, if_true]
      split <;> simp_all

/-! ### Recording pauses -/

theorem State.gapPlaced_endRun (s : State) (p : PortNo) (n stop : Nat) :
    SameCues (s.gapPlaced p n stop) ((s.endRun p).gapPlaced p n stop) :=
  SameCues.gapPlaced (.of_touches (s.endRun_touches p)) (by simp [State.endRun]) n stop

/-- The port once a take's run and gap have ended (R37, R38). -/
theorem State.intake_closeGap_endRun (s : State) (p : PortNo) (n stop : Nat) (q : PortNo) :
    ((s.endRun p).closeGap p n stop).intake q = if q = p then { s.intake p with
      run := none, gap := none, starving := (s.intake p).starving && (s.intake p).gap.isNone } else s.intake q := by
  rw [State.intake_closeGap]
  by_cases here : q = p <;> simp [here, State.endRun]

theorem SameCues.settled (s : State) (p : PortNo) (n stop : Nat) :
    SameCues (s.gapPlaced p n stop) ((s.endRun p).closeGap p n stop) :=
  (s.gapPlaced_endRun p n stop).trans (.closeGap _ p n stop)

theorem TakeBecomes.settled {n : Nat} (found : s.take? n = some t) (p : PortNo) (stop : Nat) :
    TakeBecomes n s ((s.endRun p).closeGap p n stop) { t with cues := (s.gapPlaced p n stop).cuesOf n } := by
  have ended := of_touches found (s.endRun_touches p)
  have closed := closeGap ended.here p stop
  rw [(s.gapPlaced_endRun p n stop).cuesOf] at closed
  exact ended.trans closed

/-- The cue list of a RECORDING take whose link goes QUIET or is lost: LINK_QUIET at E behind the GAP (R8, R9). -/
def State.quietCues (s : State) (p : PortNo) (t : Take) : List Cue :=
  let h := s.gapPlaced p t.id t.endTime
  h.withCueIf h.admitsClosing t.endTime .linkQuiet none .auto (h.cuesOf t.id)

theorem TakeBecomes.pauseQuiet (found : s.take? t.id = some t) (p : PortNo) :
    TakeBecomes t.id s (s.pauseTake p t (fun s => s.placeLinkQuiet t))
      { t with state := .paused, cues := s.quietCues p t } := by
  have settled := TakeBecomes.settled found p t.endTime
  have placed := settled.trans (placeClosing settled.here t.endTime .linkQuiet none .auto)
  have same := SameCues.settled s p t.id t.endTime
  rw [same.withCueIf, same.admitsClosing] at placed
  exact (placed.trans (updTake placed.here (fun t => { t with state := .paused }))).then_touches
    (State.clearDiscard_touches _ _)

theorem State.intake_pauseTake {place : State → State} (placed : ∀ u, (place u).intake = u.intake) (s : State)
    (p q : PortNo) (t : Take) : (s.pauseTake p t place).intake q = if q = p then { s.intake p with
      run := none, gap := none, discard := false
      starving := (s.intake p).starving && (s.intake p).gap.isNone } else s.intake q := by
  simp only [State.pauseTake, State.clearDiscard, State.intake_setIntake, State.intake_updTake, placed,
    State.intake_closeGap_endRun, if_true]
  split <;> rfl

theorem State.intake_pauseQuiet (s : State) (p q : PortNo) (t : Take) :
    (s.pauseTake p t (fun s => s.placeLinkQuiet t)).intake q = if q = p then { s.intake p with
      run := none, gap := none, discard := false
      starving := (s.intake p).starving && (s.intake p).gap.isNone } else s.intake q :=
  State.intake_pauseTake (fun u => funext ((u.placeClosing_touches _ _ _ _ _).get .intake rfl)) s p q t

/-! ### Readback ends -/

/-- The take at the end of its readback (R139 to R141): READBACK_END at E, and LINK_QUIET behind it at a quiet. -/
theorem TakeBecomes.endReadback (found : s.take? t.id = some t) (ctx : s.ctx p = some x) (over_it : x.take = t.id)
    (origin : Origin) (quiet : Bool) :
    TakeBecomes t.id s (s.endReadback p t origin quiet) { t with
      state := .paused, readers := t.readers - 1
      cues :=
        let ended := s.withCueIf s.admitsClosing t.endTime .readbackEnd none origin t.cues
        let h := s.placeClosing t.id t.endTime .readbackEnd none origin
        if quiet then h.withCueIf h.admitsClosing t.endTime .linkQuiet none .auto ended else ended } := by
  have removed := TakeBecomes.removeCtx ctx (over_it ▸ found)
  rw [over_it] at removed
  have same : SameCues s (s.removeCtx p) := .of_touches (s.removeCtx_touches p)
  have ended := removed.trans (placeClosing removed.here t.endTime .readbackEnd none origin)
  have later := same.placeClosing t.id t.endTime .readbackEnd none origin
  rw [same.withCueIf, same.admitsClosing] at ended
  have last (u : State) (y : Take) (h : TakeBecomes t.id s u y) : TakeBecomes t.id s
      (((u.updTake t.id (fun t => { t with state := .paused })).clearDiscard p).setLink p
        { ((u.updTake t.id (fun t => { t with state := .paused })).clearDiscard p).link p with
          role := some .recorder }) { y with state := .paused } :=
    ((h.trans (updTake h.here (fun t => { t with state := .paused }))).then_touches
      (State.clearDiscard_touches _ _)).then_touches (State.setLink_touches _ _ _)
  unfold State.endReadback
  cases quiet with
  | false => exact last _ _ ended
  | true =>
    have quieted := ended.trans (placeClosing ended.here t.endTime .linkQuiet none .auto)
    rw [later.withCueIf, later.admitsClosing] at quieted
    exact last _ _ quieted

theorem State.ctx_endReadback (s : State) (p q : PortNo) (t : Take) (origin : Origin) (quiet : Bool) :
    (s.endReadback p t origin quiet).ctx q = if q = p then none else s.ctx q := by
  rw [← State.ctx_removeCtx]
  unfold State.endReadback
  have placed (u : State) (time : Nat) (kind : CueKind) (o : Origin) :
      (u.placeClosing t.id time kind none o).ctx = u.ctx :=
    funext ((u.placeClosing_touches _ _ _ _ _).get .ctx rfl)
  cases quiet <;> simp [State.placeLinkQuiet, State.clearDiscard, placed]

theorem State.discard_endReadback (s : State) (p : PortNo) (t : Take) (origin : Origin) (quiet : Bool) :
    ((s.endReadback p t origin quiet).intake p).discard = false := by
  simp [State.endReadback, State.clearDiscard]

/-! ### Completion log -/

theorem State.log_logWrite (s : State) (r : LogRec) : (s.logWrite r).log = s.logged r := by
  unfold State.logWrite State.logged
  split
  · next room =>
    refine Eq.trans ?_ (if_pos room).symm
    dsimp only
    split
    · exact (State.notifyDesks_touches _ _).get .log rfl
    · rfl
  · next full => exact (if_neg full).symm

theorem State.overrun_logWrite (s : State) (r : LogRec) :
    (s.logWrite r).overrun = (s.overrun || decide (64 ≤ s.log.length)) := by
  have size : Config.logRecords = 64 := rfl
  unfold State.logWrite
  split
  · next room =>
    have short : decide (64 ≤ s.log.length) = false := by simp; omega
    rw [short, Bool.or_false]
    split
    · exact (State.notifyDesks_touches _ _).get .overrun rfl
    · rfl
  · simp; omega

/-! ### Chunks changed -/

/-- The chunk changed by name (6.2). -/
theorem State.chunk?_updChunk_self (found : s.chunk? n = some c) (f : Chunk → Chunk) (named : ∀ d, (f d).name = d.name) :
    (s.updChunk n f).chunk? n = some (f c) := by
  rw [State.chunk?_updChunk _ _ _ _ named, found]
  simp [State.chunk?_name found]

theorem State.chunk?_updChunk_ne (found : s.chunk? n = some c) {m : ChunkName} (other : n ≠ m) (f : Chunk → Chunk)
    (named : ∀ d, (f d).name = d.name) : (s.updChunk m f).chunk? n = some c := by
  rw [State.chunk?_updChunk _ _ _ _ named, found]
  simp [State.chunk?_name found, other]

theorem Touches.chunk? {ps : List Part} (touched : Touches ps s v) (outside : ps.contains .chunks = false := by rfl)
    (n : ChunkName) : v.chunk? n = s.chunk? n := by
  rw [State.chunk?, touched.get .chunks outside]
  rfl

/-- A hold stands while another chunk is put back among the waiting. -/
theorem State.heldBy_updChunk (held : s.heldBy p = some c) {m : ChunkName} (other : c.name ≠ m) (f : Chunk → Chunk)
    (off : ∀ d, (f d).state ≠ .held) : (s.updChunk m f).heldBy p = some c := by
  unfold State.heldBy at held ⊢
  rw [State.chunks_updChunk]
  revert held
  induction s.chunks with
  | nil => simp
  | cons d l ih =>
    rw [List.map_cons]
    by_cases this : d.state = .held ∧ d.holderPort = some p
    · rw [List.find?_cons_of_pos (by simpa using this)]
      rintro ⟨⟩
      rw [if_neg other, List.find?_cons_of_pos (by simpa using this)]
    · rw [List.find?_cons_of_neg (by simpa using this), List.find?_cons_of_neg]
      · exact ih
      · split
        · simp [off]
        · simpa using this

/-- The hand-off state of a port, or that with its reservation cleared. -/
theorem State.handoff_updChunk_or (s : State) (n : ChunkName) (f : Chunk → Chunk) (q : PortNo) :
    (s.updChunk n f).handoff q = s.handoff q ∨
      (s.updChunk n f).handoff q = { s.handoff q with reservation := none } := by
  rw [State.handoff_updChunk]
  split
  · exact .inr rfl
  · exact .inl rfl

/-! ### A hold is lost -/

theorem State.handoff_loseHold (s : State) (p q : PortNo) (clear : (s.handoff q).reservation = none) :
    (s.loseHold p).handoff q = s.handoff q := by
  have removed := (s.removeCtx_touches p).get .handoff rfl q
  have updated (u : State) (same : u.handoff q = s.handoff q) (n : ChunkName) (f : Chunk → Chunk) :
      (u.updChunk n f).handoff q = s.handoff q := by
    rw [State.handoff_updChunk, same, if_neg (by simp [clear])]
  unfold State.loseHold
  split
  · exact removed
  · dsimp only
    split
    · unfold State.parkChunk
      exact ((State.logWrite_touches _ _).get .handoff rfl q).trans (updated _ removed _ _)
    · exact updated _ removed _ _

/-- What is left of a hold that ends with its link: a lapse with the cursor saved and the grace timer running
(R102), or a record and the chunk parked (R108). -/
def State.HoldLost (s v : State) (c : Chunk) (x : Ctx) : Prop :=
  (c.recallPending = false →
    v.chunk? c.name = some { c with
      state := .lapsing, savedCursor := some x.cursor, holderPort := none, graceTimer := some s.grace } ∧
    v.log = s.log) ∧
  (c.recallPending = true →
    v.chunk? c.name = some { c with
      state := .parked, pool := none, offeree := none, holderStation := none, holderPort := none
      heldSince := none, savedCursor := none, graceTimer := none, recallPending := false } ∧
    v.log = s.logged { kind := .recalled, chunk := c.name, station := c.holderStation, clock := s.clock
                       heldSince := c.heldSince, pages := 0, tooLate := false })

theorem State.loseHold_leaves (held : s.heldBy p = some c) (found : s.chunk? c.name = some c)
    (ctx : s.ctx p = some x) : s.HoldLost (s.loseHold p) c x ∧ ¬ (s.loseHold p).hasPending c.name := by
  have removed := s.removeCtx_touches p
  have found' : (s.removeCtx p).chunk? c.name = some c := (removed.chunk? rfl c.name).trans found
  unfold State.loseHold
  rw [held]
  dsimp only
  cases recalled : c.recallPending with
  | false =>
    simp only [Bool.false_eq_true, if_false]
    refine ⟨⟨fun _ => ⟨?_, ?_⟩, fun wrong => by simp [recalled] at wrong⟩, ?_⟩
    · refine (State.chunk?_updChunk_self found' _ ?_).trans ?_
      · exact fun _ => rfl
      · rw [ctx, removed.get .grace rfl]; rfl
    · exact ((State.updChunk_touches _ _ _).get .log rfl).trans (removed.get .log rfl)
    · exact State.not_hasPending_updChunk _ _ _ fun _ => nofun
  | true =>
    simp only [if_true]
    unfold State.parkChunk
    have logged := State.logWrite_touches ((s.removeCtx p).updChunk c.name Chunk.park) ((s.removeCtx p).recalledRec c)
    refine ⟨⟨fun wrong => by simp [recalled] at wrong, fun _ => ⟨?_, ?_⟩⟩, ?_⟩
    · exact (logged.chunk? rfl _).trans (State.chunk?_updChunk_self found' Chunk.park fun _ => rfl)
    · rw [State.log_logWrite, State.logged, State.logged, (State.updChunk_touches _ _ _).get .log rfl,
        removed.get .log rfl, State.recalledRec, removed.get .clock rfl]
    · rw [State.hasPending, logged.get .chunks rfl]
      exact State.not_hasPending_updChunk _ _ _ fun _ => nofun

theorem State.ctx_loseHold (s : State) (p q : PortNo) : (s.loseHold p).ctx q = if q = p then none else s.ctx q := by
  rw [← State.ctx_removeCtx]
  unfold State.loseHold
  split
  · rfl
  · dsimp only
    split
    · exact (State.parkChunk_touches _ _).get .ctx rfl q
    · simp

theorem TakeBecomes.loseHold (ctx : s.ctx p = some x) (found : s.take? x.take = some t) :
    TakeBecomes x.take s (s.loseHold p) { t with readers := t.readers - 1 } := by
  have removed := TakeBecomes.removeCtx ctx found
  unfold State.loseHold
  split
  · exact removed
  · dsimp only
    split
    · exact removed.then_touches (State.parkChunk_touches _ _)
    · exact removed.then_touches (State.updChunk_touches _ _ _)

theorem State.loseHold_touches' (s : State) (p : PortNo) :
    Touches [.ctx, .takes, .arbiter, .log, .overrun, .handoff, .chunks, .out] s (s.loseHold p) := by
  unfold State.loseHold
  split
  · exact (s.removeCtx_touches p).mono rfl
  · exact .ite (fun _ => .seq (s.removeCtx_touches p) (State.parkChunk_touches _ _))
      (fun _ => .seq (s.removeCtx_touches p) (State.updChunk_touches _ _ _))

/-! ### A typist leaves the hand-off -/

theorem Handoff.offer_none {h : Handoff} (absent : h.offer = none) : h = { h with offer := none } := by
  rw [← absent]

/-- What the end of an offer leaves of the chunks and of the port (R89). -/
theorem State.endOffer_reads (s : State) (p : PortNo) (f : Chunk → Chunk) (noticed : Bool) :
    (s.endOffer p f noticed).chunks = (match (s.handoff p).offer with
      | none => s.chunks
      | some o => s.chunks.map (fun c => if c.name = o.chunk then f c else c)) ∧
    ((s.endOffer p f noticed).handoff p = { s.handoff p with offer := none } ∨
      (s.endOffer p f noticed).handoff p = { s.handoff p with offer := none, reservation := none }) := by
  unfold State.endOffer
  cases offer : (s.handoff p).offer with
  | none => exact ⟨rfl, .inl (Handoff.offer_none offer)⟩
  | some o =>
    have told (u : State) : (u.notify p (.offerWithdrawn o.chunk)).handoff p = u.handoff p := by simp
    refine ⟨by cases noticed <;> simp, ?_⟩
    rcases State.handoff_updChunk_or (s.setHandoff p { s.handoff p with offer := none }) o.chunk f p with same | same <;>
      rw [State.handoff_setHandoff, if_pos rfl] at same
    · exact .inl (by cases noticed <;> simpa [told] using same)
    · exact .inr (by cases noticed <;> simpa [told] using same)

/-- A typist's port off its ready list, without reservation, its offer ended. -/
def State.offDuty (s : State) (p : PortNo) (noticed : Bool) : State :=
  ((s.leaveReady p).dropReservation p).endOffer p Chunk.unoffer noticed

theorem State.offDuty_touches (s : State) (p : PortNo) (noticed : Bool) :
    Touches [.pools, .handoff, .chunks, .out] s (s.offDuty p noticed) :=
  .seq (s.leaveReady_touches p) (.seq (ps := [.pools, .handoff, .chunks, .out]) (State.dropReservation_touches _ p)
    (State.endOffer_touches _ p _ _))

theorem State.handoff_offDuty (s : State) (p : PortNo) (noticed : Bool) :
    (s.offDuty p noticed).handoff p = { s.handoff p with offer := none, reservation := none } := by
  obtain ⟨-, same | same⟩ := State.endOffer_reads ((s.leaveReady p).dropReservation p) p Chunk.unoffer noticed <;>
    refine same.trans ?_ <;> simp [State.dropReservation]

theorem State.ready_offDuty (s : State) (p : PortNo) (noticed : Bool) (k : PoolId) :
    ((s.offDuty p noticed).pool k).ready = (s.pool k).ready.filter (· ≠ p) := by
  have after : Touches [.handoff, .chunks, .out] (s.leaveReady p) (s.offDuty p noticed) :=
    .seq (State.dropReservation_touches _ p) (State.endOffer_touches _ p _ _)
  rw [State.pool, after.get .pools rfl]
  exact s.ready_leaveReady p k

theorem State.chunks_offDuty (s : State) (p : PortNo) (noticed : Bool) :
    (s.offDuty p noticed).chunks = match (s.handoff p).offer with
      | none => s.chunks
      | some o => s.chunks.map (fun c => if c.name = o.chunk then c.unoffer else c) := by
  refine (State.endOffer_reads _ p Chunk.unoffer noticed).1.trans ?_
  simp [State.dropReservation]

/-- A chunk that the port is not offered stands. -/
theorem State.chunk?_offDuty (found : s.chunk? n = some c) (other : (s.handoff p).offer.map (·.chunk) ≠ some n)
    (noticed : Bool) : (s.offDuty p noticed).chunk? n = some c := by
  unfold State.chunk?
  rw [State.chunks_offDuty]
  cases offer : (s.handoff p).offer with
  | none => exact found
  | some o =>
    have apart : n ≠ o.chunk := fun same => other (by rw [offer, same]; rfl)
    exact State.chunk?_updChunk_ne found apart Chunk.unoffer fun _ => rfl

theorem State.heldBy_offDuty (held : s.heldBy p = some c) (other : (s.handoff p).offer.map (·.chunk) ≠ some c.name)
    (noticed : Bool) : (s.offDuty p noticed).heldBy p = some c := by
  unfold State.heldBy
  rw [State.chunks_offDuty]
  cases offer : (s.handoff p).offer with
  | none => exact held
  | some o =>
    have apart : c.name ≠ o.chunk := fun same => other (by rw [offer, same]; rfl)
    exact State.heldBy_updChunk held apart Chunk.unoffer fun _ => nofun

/-- No chunk of the name waits that did not wait, where the port's offer is of another. -/
theorem State.hasPending_offDuty (other : (s.handoff p).offer.map (·.chunk) ≠ some n) (noticed : Bool)
    (waits : (s.offDuty p noticed).hasPending n) : s.hasPending n := by
  obtain ⟨e, listed, name, pending⟩ := waits
  rw [State.chunks_offDuty] at listed
  cases offer : (s.handoff p).offer with
  | none => rw [offer] at listed; exact ⟨e, listed, name, pending⟩
  | some o =>
    rw [offer] at listed
    obtain ⟨d, among, rfl⟩ := List.mem_map.1 listed
    by_cases this : d.name = o.chunk
    · rw [if_pos this] at name
      exact absurd (by rw [offer]; exact congrArg some (this.symm.trans name)) other
    · rw [if_neg this] at name pending
      exact ⟨d, among, name, pending⟩

/-! ### A typist is lost -/

/-- A typist's port out of the hand-off. -/
def State.unlisted (s : State) (p : PortNo) : State :=
  (s.offDuty p false).setHandoff p { (s.offDuty p false).handoff p with lapsed := none }

theorem State.typistLoss_eq (s : State) (p : PortNo) :
    ∃ k, s.typistLoss p = ((s.unlisted p).loseHold p).offerPass? k := by
  unfold State.typistLoss
  dsimp only
  split
  · exact ⟨_, rfl⟩
  · exact ⟨none, rfl⟩

theorem State.unlisted_touches (s : State) (p : PortNo) :
    Touches [.pools, .handoff, .chunks, .out] s (s.unlisted p) :=
  .seq (s.offDuty_touches p false) (State.setHandoff_touches _ p _)

theorem State.handoff_unlisted (s : State) (p : PortNo) :
    (s.unlisted p).handoff p = { offer := none, lapsed := none, reservation := none } := by
  simp [State.unlisted, State.handoff_offDuty]

/-- What a pass leaves of a port that is on no ready list. -/
theorem State.offerPassOf_unready (s : State) (k : Option PoolId) (off : ∀ j, p ∉ (s.pool j).ready) :
    (∀ j, p ∉ ((s.offerPass? k).pool j).ready) ∧
    ((s.offerPass? k).handoff p = s.handoff p ∨
      (s.offerPass? k).handoff p = { s.handoff p with reservation := none }) := by
  have offers := OffersOnly.offerPassOf s k
  refine ⟨fun j listed => off j ((offers.lists j).subset listed), offers.others p ?_⟩
  cases k with
  | none => exact List.not_mem_nil
  | some k => exact off k

/-- The loss of a typist's link (R90, R102, R108). -/
theorem State.typistLoss_leaves (held : s.heldBy p = some c) (found : s.chunk? c.name = some c) (ctx : s.ctx p = some x)
    (take : s.take? x.take = some t) (other : (s.handoff p).offer.map (·.chunk) ≠ some c.name) :
    let v := s.typistLoss p
    v.ctx p = none ∧ v.take? x.take = some { t with readers := t.readers - 1 } ∧ (∀ k, p ∉ (v.pool k).ready) ∧
      v.handoff p = { offer := none, lapsed := none, reservation := none } ∧ s.HoldLost v c x := by
  obtain ⟨k, pass⟩ := s.typistLoss_eq p
  have unlisted := s.unlisted_touches p
  have listed := State.setHandoff_touches (s.offDuty p false) p { (s.offDuty p false).handoff p with lapsed := none }
  have found' : (s.unlisted p).chunk? c.name = some c :=
    (listed.chunk? rfl _).trans (State.chunk?_offDuty found other false)
  have held' : (s.unlisted p).heldBy p = some c := State.heldBy_offDuty held other false
  have ctx' : (s.unlisted p).ctx p = some x := (unlisted.get .ctx rfl p).trans ctx
  have take' : (s.unlisted p).take? x.take = some t := (unlisted.take? rfl _).trans take
  obtain ⟨lost, off⟩ := State.loseHold_leaves held' found' ctx'
  have clear := s.handoff_unlisted p
  have handoff := (s.unlisted p).handoff_loseHold p p (by rw [clear])
  have pools (j : PoolId) : (((s.unlisted p).loseHold p).pool j).ready = (s.pool j).ready.filter (· ≠ p) := by
    rw [State.pool, ((s.unlisted p).loseHold_touches' p).get .pools rfl]
    exact s.ready_offDuty p false j
  have passed := State.offerPassOf_touches ((s.unlisted p).loseHold p) k
  have only := OffersOnly.offerPassOf ((s.unlisted p).loseHold p) k
  obtain ⟨unready, same⟩ := State.offerPassOf_unready (p := p) ((s.unlisted p).loseHold p) k (by simp [pools])
  rw [pass]
  refine ⟨?_, ?_, unready, ?_, fun recalled => ?_, fun recalled => ?_⟩
  · rw [passed.get .ctx rfl, State.ctx_loseHold, if_pos rfl]
  · exact ((TakeBecomes.loseHold ctx' take').then_touches passed).here
  · rw [handoff, clear] at same
    simpa using same
  · obtain ⟨lapsed, log⟩ := lost.1 recalled
    refine ⟨?_, (passed.get .log rfl).trans (log.trans (unlisted.get .log rfl))⟩
    rw [unlisted.get .grace rfl] at lapsed
    exact only.chunk?_stands lapsed off
  · obtain ⟨parked, log⟩ := lost.2 recalled
    refine ⟨only.chunk?_stands parked off, (passed.get .log rfl).trans (log.trans ?_)⟩
    rw [State.logged, State.logged, unlisted.get .log rfl, unlisted.get .clock rfl]

/-! ### A typist goes quiet -/

theorem State.withdrawOffer_eq (s : State) (p : PortNo) (noticed : Bool) :
    ∃ k, s.withdrawOffer p noticed false = (s.endOffer p Chunk.unoffer noticed).offerPass? k := by
  unfold State.withdrawOffer
  cases offer : (s.handoff p).offer with
  | none => exact ⟨none, by simp [State.endOffer, offer, State.offerPass?]⟩
  | some o => exact ⟨s.offerPool p, by simp⟩

theorem State.typistQuiet_eq (s : State) (p : PortNo) :
    ∃ k, s.typistQuiet p = ((s.offDuty p true).offerPass? k).stopCtx p := by
  obtain ⟨k, withdrawn⟩ := State.withdrawOffer_eq ((s.leaveReady p).dropReservation p) p true
  exact ⟨k, congrArg (fun u : State => u.stopCtx p) withdrawn⟩

/-- The quiet of a typist's link (R99, R125, R153): the port leaves the hand-off, its hold stands and its context is
stopped. -/
theorem State.typistQuiet_leaves (s : State) (p : PortNo) :
    let v := s.typistQuiet p
    (∀ k, p ∉ (v.pool k).ready) ∧ (v.handoff p).offer = none ∧ (v.handoff p).reservation = none ∧
      v.ctx p = (s.ctx p).map Ctx.halted ∧
      ∀ n c, s.chunk? n = some c → (s.handoff p).offer.map (·.chunk) ≠ some n → ¬ s.hasPending n →
        v.chunk? n = some c := by
  obtain ⟨k, quiet⟩ := s.typistQuiet_eq p
  have passed := State.offerPassOf_touches (s.offDuty p true) k
  have stopped := ((s.offDuty p true).offerPass? k).stopCtx_touches p
  have off (j : PoolId) : p ∉ ((s.offDuty p true).pool j).ready := by simp [State.ready_offDuty]
  obtain ⟨unready, same⟩ := State.offerPassOf_unready (s.offDuty p true) k off
  have handoff : (s.typistQuiet p).handoff p = { s.handoff p with offer := none, reservation := none } := by
    rw [quiet, stopped.get .handoff rfl]
    rw [s.handoff_offDuty p true] at same
    exact same.elim id id
  refine ⟨fun j => ?_, by rw [handoff], by rw [handoff], ?_, fun n c found other none => ?_⟩
  · rw [quiet, State.pool, stopped.get .pools rfl]
    exact unready j
  · rw [quiet, State.ctx_stopCtx, if_pos rfl, passed.get .ctx rfl, (s.offDuty_touches p true).get .ctx rfl]
  · rw [quiet, stopped.chunk? rfl]
    exact (OffersOnly.offerPassOf (s.offDuty p true) k).chunk?_stands (State.chunk?_offDuty found other true)
      fun waits => none (State.hasPending_offDuty other true waits)

end

end Sys2Proof.Machine

/-!
PROOFS. Station links (Chapter 9): frames good and bad, carrier, timers, ATTACH and DETACH.
-/

namespace Sys2Proof.Machine

set_option Elab.async false

section
variable {s v w g : State} {p q : PortNo} {t u : Take} {x : Ctx} {c : Chunk}

/-! ### Good frames -/

theorem State.link_goodFrame_self (s : State) (p : PortNo) :
    (s.goodFrame p).link p = { s.link p with
      errorCount := (s.link p).errorCount - 1, warning := 96 ≤ (s.link p).errorCount - 1
      state := if (s.link p).isAttached then .attached else (s.link p).state
      quietTimer := (s.link p).isAttached || (s.link p).quietTimer
      dropTimer := if (s.link p).isAttached then none else (s.link p).dropTimer } := by
  rw [State.link_goodFrame, if_pos rfl]
  cases attached : (s.link p).isAttached <;>
    simp only [Link.tested, Link.good] <;> simp [Link.isAttached] at attached ⊢ <;> simp [attached]

theorem State.link_goodFrame_other (s : State) {p q : PortNo} (other : q ≠ p) : (s.goodFrame p).link q = s.link q := by
  rw [State.link_goodFrame, if_neg other]

theorem warningTo_eq (s : State) (p : PortNo) (l : Link) (attached : l.isAttached = (s.link p).isAttached)
    (mask : l.mask = (s.link p).mask) :
    warningTo p l = if 96 ≤ l.errorCount ∧ l.warning = false then s.noticeTo p (.linkWarning l.errorCount) else [] := by
  have masks (n : Notice) : l.masks n = (s.link p).masks n := by rw [Link.masks, mask]; rfl
  simp only [warningTo, State.noticeTo, attached, masks]

theorem Link.good_errorCount (l : Link) : l.good.errorCount = l.errorCount - 1 := by
  unfold Link.good; dsimp only; split <;> rfl

theorem Link.good_warning (l : Link) : l.good.warning = l.warning := by
  unfold Link.good; dsimp only; split <;> rfl

theorem State.out_goodFrame (s : State) (p : PortNo) : (s.goodFrame p).out = s.out ++
    (if 96 ≤ (s.link p).errorCount - 1 ∧ (s.link p).warning = false then
      s.noticeTo p (.linkWarning ((s.link p).errorCount - 1)) else []) := by
  rw [State.goodFrame_eq]
  simp [warningTo_eq s p (s.link p).good (Link.isAttached_good _) (Link.mask_good _), Link.good_errorCount,
    Link.good_warning]

/-- Settles O10. -/
theorem goodFrameRecord : Obligations.GoodFrameRecord := by
  intro p s running takes
  refine ⟨?_, s.link_goodFrame_self p, fun q other => by simp [other], s.out_goodFrame p, s.goodFrame_touches p⟩
  change s.running _ = _
  rw [State.running_eq running]
  exact congrArg Host.Outcome.next ((if_pos takes).trans (ite_self _))

/-- Settles O13. -/
theorem ignoredAndUnknownFrames : Obligations.IgnoredAndUnknownFrames := by
  intro p tag code s running
  refine ⟨fun _ => ?_, fun takes => ?_⟩
  · exact State.running_eq running fun s => s
  · change s.running _ = _
    rw [State.running_eq running, if_pos takes, State.refuse_eq,
      State.reply_sent _ _ (by simp [takes])]

/-! ### Losses -/

theorem State.lossEffects_leaves (s : State) (p : PortNo) : s.lossLeaves (s.lossEffects p) p := by
  intro attached ids
  refine ⟨fun t role linked reading => ?_, fun t x role linked ctx over_it => ?_,
    fun c x t role held found ctx take other => ?_⟩
  · obtain ⟨-, openTake⟩ := State.linkTake_spec linked
    have found := State.take?_of_linkTake ids linked
    have effects : s.lossEffects p = s.recorderLoss p := by
      unfold State.lossEffects; rw [role]
    rw [effects, State.recorderLoss, linked]
    by_cases recording : t.state = .recording
    · have paused := TakeBecomes.pauseQuiet found p
      have orphaned := (paused.trans (.updTake paused.here fun t => { t with recPort := none })).here
      simp only [if_pos recording]
      exact orphaned
    · have paused : t.state = .paused := by
        revert openTake
        cases state : t.state <;> simp_all [Take.isOpen]
      simp only [if_neg recording]
      refine (TakeBecomes.updTake found fun t => { t with recPort := none }).here.trans ?_
      rw [← paused]
  · have found := State.take?_of_linkTake ids linked
    have effects : s.lossEffects p = (s.endReadback p t .auto false).orphan t := by
      unfold State.lossEffects State.readerLoss; rw [role, linked]
    have ended := TakeBecomes.endReadback found ctx over_it .auto false
    rw [effects]
    refine ⟨?_, ?_, ?_⟩
    · rw [State.orphan, State.ctx_updTake, State.ctx_endReadback, if_pos rfl]
    · rw [State.orphan, State.intake_updTake]
      exact State.discard_endReadback s p t .auto false
    · exact (ended.trans (.updTake ended.here fun t => { t with recPort := none })).here
  · have effects : s.lossEffects p = s.typistLoss p := by
      unfold State.lossEffects; rw [role]
    rw [effects]
    exact State.typistLoss_leaves held found ctx take other

theorem State.ctx_lossEffects_desk (role : (s.link p).role = some .desk) : (s.lossEffects p).ctx p = none := by
  unfold State.lossEffects
  rw [role]
  exact (s.ctx_removeCtx p p).trans (if_pos rfl)

/-- What a loss leaves is read from parts that no frame and no link record holds. -/
theorem State.lossLeaves.then_touches (leaves : s.lossLeaves v p) (touched : Touches [.link, .out] v w) :
    s.lossLeaves w p := by
  have ctx : w.ctx = v.ctx := funext (touched.get .ctx rfl)
  have intake : w.intake = v.intake := funext (touched.get .intake rfl)
  have handoff : w.handoff = v.handoff := funext (touched.get .handoff rfl)
  have pools : w.pools = v.pools := touched.get .pools rfl
  have pool : w.pool = v.pool := funext fun k => congrArg (fun ps : Pools => ps.get k) pools
  have take : w.take? = v.take? := funext (touched.take? rfl)
  have chunk : w.chunk? = v.chunk? := funext (touched.chunk? rfl)
  have log : w.log = v.log := touched.get .log rfl
  unfold State.lossLeaves at leaves ⊢
  rw [ctx, intake, handoff, pool, take, chunk, log]
  exact leaves

/-- A loss begins at what stood before the frame that brought it. -/
theorem State.lossLeaves.of_touches (leaves : g.lossLeaves v p) (touched : Touches [.link, .out] s g)
    (attached : (g.link p).isAttached = (s.link p).isAttached) (role : (g.link p).role = (s.link p).role) :
    s.lossLeaves v p := by
  have cues : SameCues s g := .of_touches touched
  have takes : g.takes = s.takes := touched.get .takes rfl
  have chunks : g.chunks = s.chunks := touched.get .chunks rfl
  have gap (n stop : Nat) : SameCues (s.gapPlaced p n stop) (g.gapPlaced p n stop) :=
    cues.gapPlaced (by rw [touched.get .intake rfl p]) n stop
  have linkTake : g.linkTake p = s.linkTake p := by rw [State.linkTake, takes]; rfl
  have ids : g.takeIds = s.takeIds := by rw [State.takeIds, takes]; rfl
  have held : g.heldBy p = s.heldBy p := by rw [State.heldBy, chunks]; rfl
  have ctx : g.ctx = s.ctx := funext (touched.get .ctx rfl)
  have handoff : g.handoff = s.handoff := funext (touched.get .handoff rfl)
  have take : g.take? = s.take? := funext (touched.take? rfl)
  have chunk : g.chunk? = s.chunk? := funext (touched.chunk? rfl)
  have grace : g.grace = s.grace := touched.get .grace rfl
  have logged : g.logged = s.logged := funext fun r => by
    rw [State.logged, show g.log = s.log from touched.get .log rfl]; rfl
  unfold State.lossLeaves at leaves ⊢
  dsimp only at leaves ⊢
  rw [attached, role, ids, linkTake, held, take, chunk, cues.withCueIf, cues.admitsClosing, ctx, handoff, grace, logged,
    show g.log = s.log from touched.get .log rfl, show g.clock = s.clock from touched.get .clock rfl] at leaves
  simp only [(gap _ _).withCueIf, (gap _ _).admitsClosing, (gap _ _).cuesOf] at leaves
  exact leaves

theorem State.loseLink_leaves (s : State) (p : PortNo) : s.lossLeaves (s.loseLink p) p := by
  unfold State.loseLink
  split
  · exact (s.lossEffects_leaves p).then_touches ((State.setLink_touches _ _ _).mono rfl)
  · next bare => exact fun attached => absurd attached bare

theorem State.ctx_loseLink_desk (attached : (s.link p).isAttached = true) (role : (s.link p).role = some .desk) :
    (s.loseLink p).ctx p = none := by
  unfold State.loseLink
  rw [if_pos attached, State.ctx_setLink]
  exact State.ctx_lossEffects_desk role

theorem State.loseLink_bare_touches (bare : (s.link p).isAttached = false) : Touches [.link] s (s.loseLink p) := by
  unfold State.loseLink
  rw [if_neg (by simp [bare])]
  exact State.setLink_touches _ _ _

/-- A loss and the port record that stands after it. -/
theorem State.link_loseLink_updLink (s : State) (p q : PortNo) (f : Link → Link) :
    ((s.loseLink p).updLink p f).link q = if q = p then f (s.link p).cleared else s.link q := by
  simp only [State.link_updLink, State.link_loseLink, if_true]
  split <;> rfl

/-- What a loss leaves once the port record is changed (R144, R147, R154). -/
theorem State.lost_spec (s : State) (p : PortNo) (f : Link → Link) :
    let t := (s.loseLink p).updLink p f
    (∀ q, q ≠ p → t.link q = s.link q) ∧ t.link p = f (s.link p).cleared ∧ s.lossLeaves t p ∧
      ((s.link p).isAttached = true ∧ (s.link p).role = some .desk → t.ctx p = none) ∧
      ((s.link p).isAttached = false → Touches [.link] s t) ∧ Touches lossParts s t := by
  refine ⟨fun q other => ?_, ?_, ?_, fun ⟨attached, role⟩ => ?_, fun bare => ?_, ?_⟩
  · rw [State.link_loseLink_updLink, if_neg other]
  · rw [State.link_loseLink_updLink, if_pos rfl]
  · exact (s.loseLink_leaves p).then_touches ((State.updLink_touches _ _ _).mono rfl)
  · rw [State.ctx_updLink]; exact State.ctx_loseLink_desk attached role
  · exact .seq (State.loseLink_bare_touches bare) (State.updLink_touches _ _ _)
  · exact .seq (s.loseLink_touches p) (State.updLink_touches _ _ _)

/-- Settles O12. -/
theorem carrierAndBreakRecords : Obligations.CarrierAndBreakRecords := by
  intro p s running l
  refine ⟨fun down => ?_, fun carrier => ⟨?_, ?_⟩⟩
  · change s.running _ = _
    rw [State.running_eq running, if_pos down]
    split <;> rfl
  · refine ⟨(s.loseLink p).updLink p (fun l => { l with state := .down, sendTimer := false }), ?_, s.lost_spec p _⟩
    change execCarrierLost p s = _
    rw [execCarrierLost, State.running_eq running, if_neg carrier]
  · refine ⟨(s.loseLink p).updLink p (fun l => { l with
      state := .listening, errorCount := 0, warning := false, faultLatch := false, sendTimer := true }), ?_,
      s.lost_spec p _⟩
    change execLineBreak p s = _
    rw [execLineBreak, State.running_eq running, if_neg carrier]

/-! ### Bad frames -/

/-- The port once a bad frame is counted and its warning tested (R146). -/
def State.badCounted (s : State) (p : PortNo) : State :=
  (s.updLink p (fun l => { l with errorCount := min 255 (l.errorCount + 8) })).testErrors p

theorem State.badCounted_touches (s : State) (p : PortNo) : Touches [.link, .out] s (s.badCounted p) :=
  .seq (s.updLink_touches p _) (State.testErrors_touches _ p)

theorem State.link_badCounted (s : State) (p q : PortNo) : (s.badCounted p).link q =
    if q = p then ({ s.link p with errorCount := min 255 ((s.link p).errorCount + 8) } : Link).tested else s.link q := by
  by_cases here : q = p <;> simp [State.badCounted, here]

theorem State.out_badCounted (s : State) (p : PortNo) : (s.badCounted p).out = s.out ++
    (if 96 ≤ min 255 ((s.link p).errorCount + 8) ∧ (s.link p).warning = false then
      s.noticeTo p (.linkWarning (min 255 ((s.link p).errorCount + 8))) else []) := by
  rw [State.badCounted, State.testErrors_eq]
  simp [warningTo_eq s p { s.link p with errorCount := min 255 ((s.link p).errorCount + 8) } rfl rfl,
    State.updLink]

theorem State.badFrameTaken_eq (s : State) (p : PortNo) : s.badFrameTaken p =
    if min 255 ((s.link p).errorCount + 8) = 255 then (s.badCounted p).faultPort p else s.badCounted p := by
  have count : ((s.badCounted p).link p).errorCount = min 255 ((s.link p).errorCount + 8) := by
    rw [State.link_badCounted, if_pos rfl]; rfl
  rw [← count]
  rfl

/-- Settles O11. -/
theorem badFrameRecord : Obligations.BadFrameRecord := by
  intro p s running takes l n
  refine ⟨s.badFrameTaken p, ?_, fun q other => ?_, fun below => ?_, fun top => ?_⟩
  · change s.running _ = _
    rw [State.running_eq running, if_pos takes]
  · rw [State.link_badFrameTaken, if_neg other]
  · have under : min 255 ((s.link p).errorCount + 8) ≠ 255 := Nat.ne_of_lt below
    rw [State.badFrameTaken_eq, if_neg under]
    refine ⟨?_, s.out_badCounted p, s.badCounted_touches p⟩
    rw [State.link_badCounted, if_pos rfl]
    rfl
  · have reached : min 255 ((s.link p).errorCount + 8) = 255 := top
    have link := s.link_badCounted p p
    rw [if_pos rfl] at link
    refine ⟨?_, ?_, s.badFrameTaken_touches p⟩
    · rw [State.link_badFrameTaken, if_pos rfl, Link.bad, if_pos reached]
      rfl
    · rw [State.badFrameTaken_eq, if_pos reached]
      refine State.lossLeaves.of_touches ?_ (s.badCounted_touches p) (by rw [link]; rfl) (by rw [link]; rfl)
      exact (State.lost_spec (s.badCounted p) p _).2.2.1

/-! ### ATTACH, DETACH and SET_MASK -/

theorem State.attachedElsewhere_eq_false {station : Nat}
    (free : ∀ q, q ≠ p → (s.link q).isAttached = true → (s.link q).station ≠ some station) :
    s.attachedElsewhere p station = false := by
  refine List.any_eq_false.2 fun q _ => ?_
  by_cases other : q = p
  · simp [other]
  · cases attached : (s.link q).isAttached with
    | false => simp
    | true => simp [free q other attached]

/-- Settles O14. -/
theorem attachTakesThePort : Obligations.AttachTakesThePort := by
  intro p tag station role mask r s running listening announced low high masked free g level
  have bare : (s.link p).isAttached = false := by simp [Link.isAttached, listening]
  have takes : (s.link p).takesFrames = true := by simp [Link.takesFrames, listening]
  have link (q : PortNo) : (q ≠ p → g.link q = s.link q) := fun other => by
    rw [State.link_goodFrame, if_neg other]
  have elsewhere : g.attachedElsewhere p station = false :=
    State.attachedElsewhere_eq_false fun q other => link q other ▸ free q other
  have done : exec (.attach p tag station role mask) s =
      .next (g.attachPort { port := p, tag := tag, code := 0x01 } station r mask) := by
    change s.running _ = _
    rw [State.running_eq running, if_pos takes]
    have unattached : (g.link p).isAttached = false := by
      rw [State.link_goodFrame, if_pos rfl, Link.isAttached_tested, Link.isAttached_good, bare]
    have operands : (station = 0 || decide (65535 < station) || !maskOk mask) = false := by
      simp [maskOk]; omega
    simp only [unattached, announced, operands, elsewhere, g, Bool.false_eq_true, if_false]
  let l : Link := { g.link p with
    state := .attached, role := some r, station := some station, mask := mask, clearance := level, quietTimer := true }
  let a := (g.setLink p l).clearDiscard p
  have same_level : g.levelOfStation station = level := by simp [State.levelOfStation, g, level]
  have sent : g.attachPort { port := p, tag := tag, code := 0x01 } station r mask =
      { a with out := a.out ++ [(p, .reply tag { code := 0x01, result := .ok
                                                 items := [.port p, .role (some r), .level level] })] } := by
    unfold State.attachPort
    rw [same_level, State.ok_eq, State.reply_sent _ _ (by simp [State.clearDiscard, Link.takesFrames])]
    rfl
  refine ⟨_, done, ?_⟩
  rw [sent]
  refine ⟨?_, fun q other => ?_, ?_, fun q other => ?_, rfl, ?_⟩
  · exact (State.link_setIntake _ _ _ _).trans ((State.link_setLink _ _ _ _).trans (if_pos rfl))
  · exact (State.link_setIntake _ _ _ _).trans ((State.link_setLink _ _ _ _).trans ((if_neg other).trans (link q other)))
  · refine (State.intake_setIntake _ _ _ _).trans ((if_pos rfl).trans ?_)
    simp [g]
  · refine (State.intake_setIntake _ _ _ _).trans ((if_neg other).trans ?_)
    simp [g]
  · refine .seq (s.goodFrame_touches p) (.seq (ps := [.link, .intake, .out]) (State.setLink_touches g p l)
      (.seq (ps := [.link, .intake, .out]) (State.clearDiscard_touches _ p) (Touches.sends ?_)))
    simp [Frame.speech?]

theorem State.command_run (running : s.resetHeld = false) (attached : (s.link p).isAttached = true) (tag : Byte)
    (code : Nat) (f : Bool → State → State) :
    s.running (fun s => s.onCommand { port := p, tag := tag, code := code } f) =
      .next (f ((s.link p).state = .quiet) (s.goodFrame p)) := by
  rw [State.running_eq running, State.onCommand_attached (by exact attached)]

/-- Settles O15. -/
theorem detachAndMaskOnAttachedPort : Obligations.DetachAndMaskOnAttachedPort := by
  intro p tag s running attached g
  have link := s.link_goodFrame p p
  rw [if_pos rfl] at link
  have attached' : (g.link p).isAttached = true := by rw [link, Link.isAttached_tested, Link.isAttached_good, attached]
  have takes := Link.takesFrames_of_isAttached attached'
  refine ⟨?_, fun mask fits => ?_, fun mask beyond => ?_⟩
  · obtain ⟨others, cleared, leaves, desk, -, touched⟩ := g.lost_spec p (fun l => { l with state := .listening })
    have grown := touched.get .grows rfl
    obtain ⟨sent, out⟩ := grown
    let w := (g.loseLink p).updLink p (fun l => { l with state := .listening })
    have answered := State.reply_sent (s := w) (c := { port := p, tag := tag, code := 0x02 }) .ok []
      (by rw [show w.link p = _ from cleared]; rfl)
    have answer : Touches [.link, .out] w (w.reply { port := p, tag := tag, code := 0x02 } .ok []) :=
      (State.reply_touches _ _ _ _).mono rfl
    have done : exec (.detach p tag) s = .next (w.reply { port := p, tag := tag, code := 0x02 } .ok []) :=
      State.command_run running attached tag 0x02 _
    refine ⟨_, sent, done, ?_, fun q other => ?_, ?_, fun role => ?_, ?_, ?_⟩
    · rw [State.link_reply]; exact cleared
    · rw [State.link_reply, ← s.link_goodFrame_other other]; exact others q other
    · refine (leaves.then_touches answer).of_touches (s.goodFrame_touches p) ?_ ?_
      · rw [attached', attached]
      · rw [link, Link.role_tested, Link.role_good]
    · rw [State.ctx_reply]
      refine desk ⟨attached', ?_⟩
      rw [link, Link.role_tested, Link.role_good, role]
    · exact (congrArg State.out answered).trans (congrArg (· ++ _) out)
    · exact .seq (s.goodFrame_touches p) (.seq (ps := lossParts) touched answer)
  · refine (State.command_run running attached tag 0x03 _).trans (congrArg _ ?_)
    have fits : maskOk mask = true := by simpa [maskOk] using fits
    rw [if_pos fits, State.ok_eq, State.reply_sent _ _ (by rw [State.link_updLink, if_pos rfl]; exact takes)]
    rfl
  · refine (State.command_run running attached tag 0x03 _).trans (congrArg _ ?_)
    have beyond : ¬ maskOk mask = true := by simpa [maskOk] using beyond
    rw [if_neg beyond, State.refuse_eq, State.reply_sent _ _ (by exact takes)]

/-! ### Timers -/

/-- The port as its quiet timer leaves it, before its role's effects (R151). -/
def State.gonePortQuiet (s : State) (p : PortNo) : State :=
  s.updLink p (fun l => { l with state := .quiet, quietTimer := false, dropTimer := some s.dropTime })

theorem State.quietTimer_run (running : s.resetHeld = false) (attached : (s.link p).state = .attached)
    (timer : (s.link p).quietTimer = true) :
    exec (.quietTimerExpiry p) s = .next ((s.gonePortQuiet p).quietEffects p) := by
  change execQuietTimerExpiry p s = _
  rw [execQuietTimerExpiry, State.running_eq running, if_pos (by simp [attached, timer])]
  rfl

theorem State.gonePortQuiet_touches (s : State) (p : PortNo) : Touches [.link] s (s.gonePortQuiet p) :=
  State.updLink_touches _ _ _

theorem State.role_gonePortQuiet (s : State) (p : PortNo) : ((s.gonePortQuiet p).link p).role = (s.link p).role := by
  simp [State.gonePortQuiet]

theorem State.heldBy_spec (held : s.heldBy p = some c) : c.state = .held ∧ c.holderPort = some p := by
  simpa using List.find?_some held

/-- Settles O16. -/
theorem linkTimersRunOut : Obligations.LinkTimersRunOut := by
  intro p s running l
  refine ⟨fun attached timer => ?_, fun quiet timer => ?_, fun takes timer => ?_⟩
  · have gone := s.gonePortQuiet_touches p
    have role := s.role_gonePortQuiet p
    have linkTake : (s.gonePortQuiet p).linkTake p = s.linkTake p := by
      rw [State.linkTake, gone.get .takes rfl]; rfl
    refine ⟨_, State.quietTimer_run running attached timer, ?_, fun q other => ?_, fun desk => ?_, fun typist => ?_,
      fun u x reader linked ids ctx over_it => ?_, fun c x typist held found names other ctx => ?_, ?_⟩
    · rw [State.link_quietEffects, if_pos rfl, State.linkOnceOver, linkTake]
      simp [State.gonePortQuiet, l]
    · rw [State.link_quietEffects, if_neg other]
      simp [State.gonePortQuiet, other]
    · unfold State.quietEffects
      rw [role, desk]
      exact (State.ctx_removeCtx _ p p).trans (if_pos rfl)
    · unfold State.quietEffects
      rw [role, typist]
      obtain ⟨unready, offer, reservation, -⟩ := (s.gonePortQuiet p).typistQuiet_leaves p
      exact ⟨unready, offer, reservation⟩
    · have found := State.take?_of_linkTake ids linked
      have found' : (s.gonePortQuiet p).take? u.id = some u := (gone.take? rfl _).trans found
      have ctx' : (s.gonePortQuiet p).ctx p = some x := (gone.get .ctx rfl p).trans ctx
      have ended := TakeBecomes.endReadback found' ctx' over_it .auto true
      have same : SameCues s (s.gonePortQuiet p) := .of_touches gone
      have later := same.placeClosing u.id u.endTime .readbackEnd none .auto
      have effects : (s.gonePortQuiet p).quietEffects p = (s.gonePortQuiet p).endReadback p u .auto true := by
        unfold State.quietEffects State.readerQuiet
        rw [role, reader, linkTake, linked]
      rw [effects]
      refine ⟨?_, State.discard_endReadback _ p u .auto true, ?_⟩
      · exact (State.ctx_endReadback _ p p u .auto true).trans (if_pos rfl)
      · rw [ended.here, same.withCueIf, same.admitsClosing]
        dsimp only
        rw [later.withCueIf, later.admitsClosing, if_pos rfl]
    · have effects : (s.gonePortQuiet p).quietEffects p = (s.gonePortQuiet p).typistQuiet p := by
        unfold State.quietEffects
        rw [role, typist]
      obtain ⟨-, -, -, halted, stands⟩ := (s.gonePortQuiet p).typistQuiet_leaves p
      rw [effects]
      refine ⟨stands c.name c ((gone.chunk? rfl _).trans found) (by rwa [gone.get .handoff rfl]) ?_, ?_⟩
      · exact State.not_hasPending_of_nodup (by rwa [gone.get .chunks rfl]) ((gone.chunk? rfl _).trans found)
          (by simp [(State.heldBy_spec held).1])
      · rw [halted, gone.get .ctx rfl, ctx]
        rfl
    · exact .seq gone (State.quietEffects_touches _ p)
  · obtain ⟨others, cleared, leaves, -, -, touched⟩ := s.lost_spec p (fun l => { l with state := .listening })
    refine ⟨(s.loseLink p).updLink p (fun l => { l with state := .listening }), ?_, cleared, others, leaves, touched⟩
    change execDropTimerExpiry p s = _
    rw [execDropTimerExpiry, State.running_eq running, if_pos (by simpa using ⟨quiet, timer⟩)]
  · change execSendTimerExpiry p s = _
    rw [execSendTimerExpiry, State.running_eq running, if_pos timer, State.emit_eq, State.sentTo, if_pos takes]

/-- Settles O17: the port's record is no part of the pause. -/
theorem recorderQuietAndLoss : Obligations.RecorderQuietAndLoss := by
  intro p s t hears attached timer linked recording ids h cues
  obtain ⟨running, attachedAs, role⟩ := hears
  have found := State.take?_of_linkTake ids linked
  have carrier : (s.link p).state ≠ .down := by rw [attached]; nofun
  refine ⟨⟨_, State.quietTimer_run running attached timer, ?_⟩, ?_⟩
  · have gone := s.gonePortQuiet_touches p
    have linked' : (s.gonePortQuiet p).linkTake p = some t := by
      rw [State.linkTake, gone.get .takes rfl]; exact linked
    have effects : (s.gonePortQuiet p).quietEffects p =
        (s.gonePortQuiet p).pauseTake p t (fun s => s.placeLinkQuiet t) := by
      unfold State.quietEffects State.recorderQuiet
      rw [s.role_gonePortQuiet p, role, linked']
      exact if_pos recording
    have paused := TakeBecomes.pauseQuiet ((gone.take? rfl t.id).trans found) p
    have same : SameCues h ((s.gonePortQuiet p).gapPlaced p t.id t.endTime) :=
      SameCues.gapPlaced (.of_touches gone) (by rw [gone.get .intake rfl p]) _ _
    have quiet : (s.gonePortQuiet p).quietCues p t = cues := by
      rw [State.quietCues, same.withCueIf, same.admitsClosing, same.cuesOf]
    have intake := (s.gonePortQuiet p).intake_pauseQuiet p p t
    rw [if_pos rfl] at intake
    rw [effects, intake, paused.here, quiet]
    exact ⟨rfl, rfl, rfl, rfl⟩
  · refine ⟨(s.loseLink p).updLink p (fun l => { l with state := .down, sendTimer := false }), ?_, ?_⟩
    · change execCarrierLost p s = _
      rw [execCarrierLost, State.running_eq running, if_neg carrier]
    · obtain ⟨-, -, leaves, -⟩ := s.lost_spec p (fun l => { l with state := .down, sendTimer := false })
      have lost := (leaves attachedAs ids).1 t role linked (by rw [recording]; nofun)
      rw [lost]
      simp only [if_pos recording]
      rfl

end

end Sys2Proof.Machine

/-!
PROOFS. The recorder's commands (Chapters 1, 2 and 8): OPEN_TAKE, PAUSE and RESUME, marks and spans, readback.
-/

namespace Sys2Proof.Machine

set_option Elab.async false

section
variable {s v w x g : State} {p q : PortNo} {t u : Take} {n : Nat}

/-! ### Replies -/

/-- What stands once a command is answered behind the cut tests of its take. -/
theorem State.answer_after_cuts {ps : List Part} {c : Cmd} (becomes : TakeBecomes n g w u) (cuts : CutsOnly n w x)
    (touched : Touches ps g x) (takes : (g.link c.port).takesFrames = true) (r : Result) (items : List Item)
    (link : ps.contains .link = false := by rfl) (grows : ps.contains .grows = false := by rfl) :
    ∃ y sent, (x.reply c r items).take? n = some y ∧ y.apartFromCuts u = u ∧
      (∀ m, m ≠ n → (x.reply c r items).take? m = g.take? m) ∧
      (x.reply c r items).out = g.out ++ sent ++
        [(c.port, .reply c.tag { code := c.code, result := r, items := items })] := by
  obtain ⟨y, cut, apart⟩ := cuts u becomes.here
  have answered := (becomes.trans cut).then_touches (State.reply_touches x c r items)
  obtain ⟨sent, out⟩ := touched.get .grows grows
  refine ⟨y, sent, answered.here, apart, answered.others, ?_⟩
  rw [State.reply_sent _ _ (by rw [touched.link link]; exact takes), out]

theorem State.out_reply_sent {c : Cmd} (takes : (w.link c.port).takesFrames = true) (r : Result) (items : List Item) :
    (w.reply c r items).out = w.out ++ [(c.port, .reply c.tag { code := c.code, result := r, items := items })] := by
  rw [State.reply_sent _ _ takes]

/-! ### Placing a cue -/

/-- A pool with an entry free has a lowest one (R11 step 1). -/
theorem State.lowestCue_isSome (room : 1 ≤ s.cueFree) : ∃ i, s.lowestCue = some i := by
  cases lowest : s.lowestCue with
  | some i => exact ⟨i, rfl⟩
  | none =>
    have all := TableLaws.firstFree_none (used := s.usedCues) (fuel := Config.cuePool) (n := 0) lowest
    have size : (List.range Config.cuePool).length ≤ s.usedCues.length :=
      (List.nodup_range.subperm fun j listed => all j (Nat.zero_le j) (by simpa using listed)).length_le
    rw [List.length_range] at size
    unfold State.cueFree at room
    omega

theorem State.cueArrival_placeCue (room : 1 ≤ s.cueFree) (time : Nat) (kind : CueKind) (value : Option Nat)
    (origin : Origin) : (s.placeCue n time kind value origin).cueArrival = min (s.cueArrival + 1) 4294967295 := by
  obtain ⟨i, lowest⟩ := State.lowestCue_isSome room
  unfold State.placeCue
  rw [lowest]
  rfl

/-! ### The order of a cue list -/

/-- Settles O27. -/
theorem cueListKeepsItsOrder : Obligations.CueListKeepsItsOrder := by
  intro new cues
  have placed : ∃ a b, cues = a ++ b ∧ insertCue new cues = a ++ new :: b ∧ (∀ e ∈ b, new.time < e.time) ∧
      ∀ e, a.getLast? = some e → e.time ≤ new.time := by
    induction cues with
    | nil => exact ⟨[], [], rfl, rfl, by simp, by simp⟩
    | cons d r ih =>
      by_cases early : (d :: r).any (fun e => e.time ≤ new.time) = true
      · obtain ⟨a, b, split, inserted, late, last⟩ := ih
        refine ⟨d :: a, b, by rw [split]; rfl, ?_, late, fun e at_end => ?_⟩
        · rw [insertCue, if_pos early, inserted]; rfl
        · cases a with
          | cons f a => exact last e (by simpa using at_end)
          | nil =>
            obtain rfl : d = e := by simpa using at_end
            obtain ⟨f, listed, before⟩ := List.any_eq_true.1 early
            have before : f.time ≤ new.time := by simpa using before
            rcases List.mem_cons.1 listed with rfl | later
            · exact before
            · exact absurd (late f (by rwa [split] at later)) (by omega)
      · refine ⟨[], d :: r, rfl, by rw [insertCue, if_neg early]; rfl, fun e listed => ?_, by simp⟩
        by_contra before
        exact early (List.any_eq_true.2 ⟨e, listed, by simpa using before⟩)
  refine ⟨placed, fun ordered arrived => ?_⟩
  obtain ⟨a, b, rfl, inserted, late, last⟩ := placed
  obtain ⟨before, after, across⟩ := List.pairwise_append.1 ordered
  rw [inserted]
  refine List.pairwise_append.2 ⟨before, List.pairwise_cons.2 ⟨fun e listed => .inl (late e listed), after⟩,
    fun e listed f joined => ?_⟩
  rcases List.mem_cons.1 joined with rfl | joined
  · have reached : e.time ≤ f.time := by
      rcases List.eq_nil_or_concat a with rfl | ⟨init, final, rfl⟩
      · simp at listed
      · have bound := last final (by simp)
        rcases (by simpa using listed : e ∈ init ∨ e = final) with early | here
        · have step := (List.pairwise_append.1 (by simpa using before)).2.2 e early final (by simp)
          omega
        · exact here ▸ bound
    have arrival := arrived e (List.mem_append_left b listed)
    omega
  · exact across e listed f joined

/-! ### OPEN_TAKE -/

theorem State.opening_run (hears : s.hears p .recorder) (tag : Byte) (f : State → State) :
    s.running (fun s => s.opening { port := p, tag := tag, code := 0x10 } f) = .next
      (if s.opState = .setup then (s.goodFrame p).refuse { port := p, tag := tag, code := 0x10 } .notRunning
      else if (s.linkTake p).isSome then (s.goodFrame p).refuse { port := p, tag := tag, code := 0x10 } .wrongState
      else f (s.goodFrame p)) := by
  obtain ⟨running, attached, role⟩ := hears
  rw [State.running_eq running, State.opening, State.asRecorder, State.onCommand_attached (by exact attached)]
  simp [role]

/-- What OPEN_TAKE allocates (R1, R2, R24). -/
theorem State.openNew_eq {c : Cmd} {slot : Nat} (free : g.freeSlot = some slot)
    (takes : (g.link c.port).takesFrames = true) (matter : Nat) :
    g.openNew c matter = { g.setIntake c.port (g.intake c.port).fresh with
      takes := Table.put g.takes slot (g.openedTake c.port matter), takeIdCounter := bumpId g.nextTakeId
      out := g.out ++ [(c.port, .reply c.tag { code := c.code, result := .ok, items := [.takeId g.nextTakeId] })] } := by
  have intake : (State.setIntake { g with
      takes := Table.put g.takes slot (g.openedTake c.port matter)
      takeIdCounter := bumpId g.nextTakeId } c.port (g.intake c.port).fresh).link c.port = g.link c.port :=
    State.link_setIntake _ _ _ _
  unfold State.openNew
  rw [free]
  exact State.reply_sent _ _ (by exact intake ▸ takes)

/-- Settles O18. -/
theorem openTakeAllocatesRecord : Obligations.OpenTakeAllocatesRecord := by
  intro p tag matter s hears g answer
  have takes : (g.link p).takesFrames = true := State.goodFrame_takesFrames hears.2.1
  have run := State.opening_run hears tag fun g => g.openNew { port := p, tag := tag, code := 0x10 } matter
  have slots : g.freeSlot = s.freeSlot := by simp [State.freeSlot, g]
  refine ⟨fun setup => run.trans ?_, fun run_state linked => run.trans ?_, fun run_state none full => run.trans ?_,
    fun slot run_state none free => run.trans ?_⟩
  · rw [if_pos setup, State.refuse_eq, State.reply_sent _ _ (by exact takes)]
  · rw [if_neg (by simp [run_state]), if_pos linked, State.refuse_eq, State.reply_sent _ _ (by exact takes)]
  · rw [if_neg (by simp [run_state]), if_neg (by simp [none])]
    simp only [State.openNew, show (s.goodFrame p).freeSlot = Option.none from slots.trans full]
    rw [State.refuse_eq, State.reply_sent _ _ (by exact takes)]
  · rw [if_neg (by simp [run_state]), if_neg (by simp [none])]
    have id : g.nextTakeId = s.nextTakeId := by simp [State.nextTakeId, g]
    have opened : g.openedTake p matter = s.openedTake p matter := by
      simp [State.openedTake, State.nextTakeId, State.actionFor, g]
    have intake : g.intake p = s.intake p := by simp [g]
    rw [State.openNew_eq (by exact slots.trans free) (by exact takes)]
    simp only [show (s.goodFrame p).nextTakeId = s.nextTakeId from id,
      show (s.goodFrame p).openedTake p matter = s.openedTake p matter from opened,
      show (s.goodFrame p).intake p = s.intake p from intake, State.goodFrame_takes]
    rfl

/-! ### Open blocks -/

theorem State.openBuf_congr (same : v.intake p = s.intake p) (n : Nat) : v.openBuf p n = s.openBuf p n := by
  rw [State.openBuf, same]; rfl

theorem State.openPort_congr (same : ∀ q, v.intake q = s.intake q) (n : Nat) : v.openPort n = s.openPort n := by
  unfold State.openPort
  exact congrArg (fun f => allPorts.find? f) (funext fun q => by rw [State.openBuf_congr (same q)])

theorem State.buf_setBuf (s : State) (p : PortNo) (k : Bool) (b : Buffer) : ((s.setBuf p k b).intake p).buf k = b := by
  rw [State.intake_setBuf, if_pos rfl]
  cases k <;> rfl

theorem State.buf_setBuf_other (s : State) (p : PortNo) (k : Bool) (b : Buffer) :
    ((s.setBuf p k b).intake p).buf (!k) = (s.intake p).buf (!k) := by
  rw [State.intake_setBuf, if_pos rfl]
  cases k <;> rfl

/-- A block that closes is being written (R49). -/
theorem State.intake_closeBlock {k : Bool} {b m start : Nat} {recs : List Rec}
    (opened : (s.intake p).buf k = .assembling b m start recs) (q : PortNo) :
    (s.closeBlock p k).intake q = (s.setBuf p k (.writing b m start recs)).intake q := by
  unfold State.closeBlock
  rw [opened]
  exact (State.grant_touches _).get .intake rfl q

theorem State.buf_closeOpenBlock {k : Bool} {b m start : Nat} {recs : List Rec} (port : s.openPort n = some q)
    (buffer : s.openBuf q n = some k) (opened : (s.intake q).buf k = .assembling b m start recs) :
    ((s.closeOpenBlock n).intake q).buf k = .writing b m start recs := by
  unfold State.closeOpenBlock
  rw [port]
  dsimp only
  rw [buffer]
  dsimp only
  rw [State.intake_closeBlock opened, State.buf_setBuf]

/-- Settles O20. -/
theorem continueReadoptsTheOrphan : Obligations.ContinueReadoptsTheOrphan := by
  intro p tag matter take s t hears run_state none found orphaned station
  have takes : ((s.goodFrame p).link p).takesFrames = true := State.goodFrame_takesFrames hears.2.1
  let c : Cmd := { port := p, tag := tag, code := 0x10 }
  let a := (s.goodFrame p).updTake take (fun t => { t with recPort := some p })
  have mine : t.isOrphaned && ((s.goodFrame p).link p).station = some t.station := by
    simp [orphaned, station]
  have done : exec (.openTakeContinue p tag matter take) s =
      .next ((a.readoptBlock p take).reply c .ok [.takeId take]) := by
    refine (State.opening_run hears tag fun g => g.readopt c take).trans ?_
    rw [if_neg (by simp [run_state]), if_neg (by simp [none]), State.readopt,
      show (s.goodFrame p).take? take = some t by simpa using found]
    exact congrArg Host.Outcome.next (if_pos mine)
  have adopted : Touches [.takes] (s.goodFrame p) a :=
    State.updTake_touches'' _ _ _ (fun _ => rfl) (fun _ => rfl) (fun _ => rfl) (fun _ => rfl)
  have intake (q : PortNo) : a.intake q = s.intake q := by simp [a]
  have block : Touches [.intake, .directory, .arbiter] a (a.readoptBlock p take) := a.readoptBlock_touches p take
  have becomes := ((TakeBecomes.updTake (s := s.goodFrame p) (by simpa using found)
    (fun t => { t with recPort := some p })).then_touches block).then_touches
      (State.reply_touches _ c .ok [.takeId take])
  have answered (ps : List Part) (touched : Touches ps a (a.readoptBlock p take)) (link : ps.contains .link = false)
      (out : ps.contains .out = false) : ((a.readoptBlock p take).reply c .ok [.takeId take]).out =
        (s.goodFrame p).out ++ [(p, .reply tag { code := 0x10, result := .ok, items := [.takeId take] })] := by
    rw [State.out_reply_sent (by rw [touched.link link]; exact takes), touched.get .out out]
    rfl
  refine ⟨_, done, becomes.here, fun m other => (becomes.others m other).trans (by simp), answered _ block rfl rfl,
    fun near => ?_, fun q k b start recs port other buffer opened => ?_, ?_⟩
  · have stays : a.readoptBlock p take = a := by
      unfold State.readoptBlock State.closeOpenBlock
      rw [State.openPort_congr intake]
      rcases near with absent | here
      · rw [absent]; rfl
      · rw [here]; exact if_pos rfl
    rw [stays]
    exact .seq (s.goodFrame_touches p) (.seq (ps := [.link, .takes, .out]) adopted (State.reply_touches _ _ _ _))
  · have moves : a.readoptBlock p take = a.closeOpenBlock take := by
      unfold State.readoptBlock
      rw [State.openPort_congr intake, port]
      exact if_neg fun same => other (Option.some.inj same)
    rw [(State.reply_touches _ _ _ _).get .intake rfl q, moves]
    exact State.buf_closeOpenBlock ((State.openPort_congr intake take).trans port)
      ((State.openBuf_congr (intake q) take).trans buffer) (by rw [intake]; exact opened)
  · exact .seq (s.goodFrame_touches p) (.seq (ps := [.link, .takes, .intake, .directory, .arbiter, .out]) adopted
      (.seq (ps := [.link, .takes, .intake, .directory, .arbiter, .out]) block (State.reply_touches _ _ _ _)))

/-! ### PAUSE and RESUME -/

/-- The cue list of a take that its recorder pauses: PAUSE at E behind the GAP (R5). -/
def State.pauseCues (s : State) (p : PortNo) (t : Take) : List Cue :=
  let h := s.gapPlaced p t.id t.endTime
  h.withCueIf h.admitsOrdinary t.endTime .pause none .recorder (h.cuesOf t.id)

theorem State.pauseCues_goodFrame (s : State) (p : PortNo) (t : Take) :
    (s.goodFrame p).pauseCues p t = s.pauseCues p t := by
  have gap : SameCues (s.gapPlaced p t.id t.endTime) ((s.goodFrame p).gapPlaced p t.id t.endTime) :=
    (SameCues.goodFrame s p).gapPlaced (by simp) t.id t.endTime
  rw [State.pauseCues, gap.withCueIf, gap.admitsOrdinary, gap.cuesOf]
  rfl

theorem TakeBecomes.pauseTake (found : s.take? t.id = some t) (p : PortNo) :
    TakeBecomes t.id s (s.pauseTake p t (fun g => g.placeIfAdmitted t.id t.endTime .pause none .recorder))
      { t with state := .paused, cues := s.pauseCues p t } := by
  have settled := TakeBecomes.settled found p t.endTime
  have placed := settled.trans (placeIfAdmitted settled.here t.endTime .pause none .recorder)
  have same := SameCues.settled s p t.id t.endTime
  rw [same.withCueIf, same.admitsOrdinary] at placed
  exact (placed.trans (updTake placed.here (fun t => { t with state := .paused }))).then_touches
    (State.clearDiscard_touches _ _)

theorem State.hears.takes_frames {r : Role} (hears : s.hears p r) : ((s.goodFrame p).link p).takesFrames = true :=
  State.goodFrame_takesFrames hears.2.1

/-- Settles O22. -/
theorem pauseAndResumeTheTake : Obligations.PauseAndResumeTheTake := by
  intro p tag s t hears linked ids h
  have found : (s.goodFrame p).take? t.id = some t := by simpa using State.take?_of_linkTake ids linked
  refine ⟨fun recording => ?_, fun paused => ?_⟩
  · let place : State → State := fun g => g.placeIfAdmitted t.id t.endTime .pause none .recorder
    let w := (s.goodFrame p).pauseTake p t place
    let placed := (((s.goodFrame p).endRun p).closeGap p t.id t.endTime).admitsOrdinary
    let x := if placed then w.signalCue t.id t.endTime .pause else w
    have done : exec (.pause p tag) s = .next (x.reply { port := p, tag := tag, code := 0x11 } .ok []) :=
      (State.take_run (.inl hears) linked tag 0x11 _).trans (congrArg _ (if_pos recording))
    have becomes := TakeBecomes.pauseTake found p
    rw [State.pauseCues_goodFrame] at becomes
    have cuts : CutsOnly t.id w x := by
      unfold x; split
      · exact .signalCue _ _ _ _
      · exact .refl _ _
    have signalled : Touches cutParts w x := .ite (fun _ => State.signalCue_touches _ _ _ _) fun _ => .refl _ _
    have pausing : Touches gapParts (s.goodFrame p) w :=
      State.pauseTake_touches _ _ _ _ fun u => (u.placeIfAdmitted_touches _ _ _ _ _).mono rfl
    have touched : Touches ([.intake, .cues, .cueArrival] ++ cutParts) (s.goodFrame p) x := .seq pausing signalled
    obtain ⟨u, sent, here, apart, others, out⟩ := State.answer_after_cuts becomes cuts touched hears.takes_frames .ok []
      (c := { port := p, tag := tag, code := 0x11 })
    refine ⟨_, u, sent, done, here, apart, fun n other => (others n other).trans (by simp), ?_, out, ?_⟩
    · have intake := State.intake_pauseTake (place := place)
        (fun u => funext ((u.placeIfAdmitted_touches _ _ _ _ _).get .intake rfl)) (s.goodFrame p) p p t
      rw [if_pos rfl, State.intake_goodFrame] at intake
      rw [(State.reply_touches _ _ _ _).get .intake rfl, signalled.get .intake rfl]
      exact intake
    · exact .seq (s.goodFrame_touches p) (.seq (ps := [.link, .intake, .cues, .cueArrival] ++ cutParts) touched
        (State.reply_touches _ _ _ _))
  · let w := (s.goodFrame p).placeIfAdmitted t.id t.endTime .resume none .recorder
    let x := w.updTake t.id (fun t => { t with state := .recording })
    have done : exec (.resume p tag) s = .next (x.reply { port := p, tag := tag, code := 0x12 } .ok []) :=
      (State.take_run (.inl hears) linked tag 0x12 _).trans (congrArg _ (if_pos paused))
    have placed := TakeBecomes.placeIfAdmitted found t.endTime .resume none .recorder
    rw [(SameCues.goodFrame s p).withCueIf, (SameCues.goodFrame s p).admitsOrdinary] at placed
    have becomes := (placed.trans (.updTake placed.here fun t => { t with state := .recording })).then_touches
      (State.reply_touches _ { port := p, tag := tag, code := 0x12 } .ok [])
    have touched : Touches [.takes, .cues, .cueArrival] (s.goodFrame p) x :=
      .seq (State.placeIfAdmitted_touches _ _ _ _ _ _) (State.updTake_touches'' _ _ _ (fun _ => rfl) (fun _ => rfl)
        (fun _ => rfl) (fun _ => rfl))
    refine ⟨_, done, becomes.here, fun n other => (becomes.others n other).trans (by simp), ?_, ?_⟩
    · rw [State.out_reply_sent (by rw [touched.link rfl]; exact hears.takes_frames), touched.get .out rfl]
    · exact .seq (s.goodFrame_touches p) (.seq (ps := [.link, .takes, .cues, .cueArrival, .out]) touched
        (State.reply_touches _ _ _ _))

/-! ### Marks and spans -/

/-- What a cue of the recorder, placed with a flag of the take changed and its cut test signalled, leaves once it is
answered (R12, R16, R17, R25). -/
theorem State.cue_answered {p : PortNo} {tag : Byte} {r : Role} (hears : s.hears p r) (found : s.take? t.id = some t)
    (kind : CueKind) (value : Option Nat) (f : Take → Take) (id : ∀ t, (f t).id = t.id)
    (chain : ∀ t, (f t).chain = t.chain) (cues : ∀ t, (f t).cues = t.cues) (stop : ∀ t, (f t).endTime = t.endTime)
    (code : Nat) (result : Result) (items : List Item) :
    let x := (((s.goodFrame p).placeCue t.id t.endTime kind value .recorder).updTake t.id f).signalCue t.id t.endTime kind
    let v := x.reply { port := p, tag := tag, code := code } result items
    let u := f { t with cues := s.withCue t.endTime kind value .recorder t.cues }
    ∃ y sent, v.take? t.id = some y ∧ y.apartFromCuts u = u ∧ (∀ m, m ≠ t.id → v.take? m = s.take? m) ∧
      v.out = (s.goodFrame p).out ++ sent ++ [(p, .reply tag { code := code, result := result, items := items })] ∧
      Touches ([.link, .cues, .cueArrival] ++ cutParts) s v := by
  intro x v u
  have placed := TakeBecomes.placeCue (s := s.goodFrame p) (n := t.id) (t := t) (by simpa using found) t.endTime kind
    value .recorder
  rw [(SameCues.goodFrame s p).withCue] at placed
  have becomes := placed.trans (TakeBecomes.updTake placed.here f id)
  have touched : Touches cueParts (s.goodFrame p) x := State.cueAndSignal_touches (s.goodFrame p) t.id t.endTime kind value
    .recorder f id chain cues stop
  obtain ⟨y, sent, here, apart, others, out⟩ := State.answer_after_cuts becomes (.signalCue t.id t.endTime kind _) touched
    (c := { port := p, tag := tag, code := code }) hears.takes_frames result items
  exact ⟨y, sent, here, apart, fun m other => (others m other).trans (by simp), out,
    .seq (s.goodFrame_touches p) (.seq (ps := [.link, .cues, .cueArrival] ++ cutParts) touched
      (x.reply_touches { port := p, tag := tag, code := code } result items))⟩

theorem State.updTake_id (s : State) (n : Nat) : s.updTake n (fun t => t) = s := by
  simp [State.updTake]

theorem State.replyClamped_answer (s : State) (c : Cmd) {a b : Nat} (items : List Item) :
    s.replyClamped c (a ≠ b) items = if a = b then s.reply c .ok [] else s.reply c .clamped items := by
  rw [State.replyClamped_eq]
  by_cases same : a = b <;> simp [same]

theorem markNumber_eq (k : CueKind) (number : Nat) :
    markNumber k number = if k = .speaker then min 63 number else number := by
  unfold markNumber
  split
  · exact clamp_zero 63 number
  · rfl

/-- Settles O24. -/
theorem markPlacesTheCue : Obligations.MarkPlacesTheCue := by
  intro p tag kind number k s t hears linked dictated ids marks n g
  have found := State.take?_of_linkTake ids linked
  have free : g.cueFree = s.cueFree := (SameCues.goodFrame s p).cueFree
  have state : (t.state = .recording || t.state = .paused) = true := by simpa using dictated
  have run : exec (.mark p tag kind number) s = .next (if g.admitsOrdinary then
      ((g.placeCue t.id t.endTime k (some n) .recorder).signalCue t.id t.endTime k).replyClamped
        { port := p, tag := tag, code := 0x14 } (n ≠ number) [.number n]
      else g.refuse { port := p, tag := tag, code := 0x14 } .tableFull) := by
    refine (State.take_run (.inl hears) linked tag 0x14 _).trans (congrArg _ ?_)
    simp only [marks, state, if_true, markNumber_eq]
    rfl
  refine ⟨fun room => ?_, fun reserve => ?_⟩
  · have admits : g.admitsOrdinary = true := by
      simpa [State.admitsOrdinary, free, Config.cueReserve] using room
    rw [if_pos admits, State.replyClamped_answer, ← State.updTake_id (g.placeCue _ _ _ _ _) t.id] at run
    have arrival (r : Result) (items : List Item) :
        ((((g.placeCue t.id t.endTime k (some n) .recorder).updTake t.id fun t => t).signalCue t.id t.endTime k).reply
          { port := p, tag := tag, code := 0x14 } r items).cueArrival = min (s.cueArrival + 1) 4294967295 := by
      rw [State.reply_cueArrival, (State.signalCue_touches _ _ _ _).get .cueArrival rfl, State.updTake_id,
        State.cueArrival_placeCue (by omega), State.goodFrame_cueArrival]
    have answered := State.cue_answered (tag := tag) hears found k (some n) (fun t => t) (fun _ => rfl) (fun _ => rfl)
      (fun _ => rfl) (fun _ => rfl) 0x14
    by_cases same : n = number
    · rw [if_pos same] at run
      obtain ⟨u, sent, here, apart, others, out, touched⟩ := answered .ok []
      exact ⟨_, u, sent, run, here, apart, others, arrival _ _, by rw [if_pos same]; exact out, touched⟩
    · rw [if_neg same] at run
      obtain ⟨u, sent, here, apart, others, out, touched⟩ := answered .clamped [.number n]
      exact ⟨_, u, sent, run, here, apart, others, arrival _ _, by rw [if_neg same]; exact out, touched⟩
  · have refuses : ¬ g.admitsOrdinary = true := by
      simpa [State.admitsOrdinary, free, Config.cueReserve] using reserve
    rw [if_neg refuses, State.refuse_eq, State.reply_sent _ _ (by exact hears.takes_frames)] at run
    exact run

theorem State.dictation_run (hears : s.hears p .recorder) (linked : s.linkTake p = some t)
    (dictated : t.state = .recording ∨ t.state = .paused) (tag : Byte) (code : Nat) (f : State → Take → State) :
    s.running (fun s => s.inDictation { port := p, tag := tag, code := code } f) = .next (f (s.goodFrame p) t) :=
  (State.take_run (.inl hears) linked tag code _).trans
    (congrArg _ (if_pos (by simpa using dictated)))

/-- Settles O25. -/
theorem spanBeginsOpenTheSpan : Obligations.SpanBeginsOpenTheSpan := by
  intro p tag level s t hears linked dictated ids room l g
  have found := State.take?_of_linkTake ids linked
  have admits : g.admitsOrdinary = true := by
    simpa [State.admitsOrdinary, (SameCues.goodFrame s p).cueFree, Config.cueReserve, g] using room
  refine ⟨fun closed => ?_, fun closed => ?_⟩
  · have run : exec (.offRecordBegin p tag) s = .next ((((g.placeCue t.id t.endTime .offRecordBegin none
        .recorder).updTake t.id (fun t => { t with offRecordOpen := true })).signalCue t.id t.endTime
          .offRecordBegin).reply { port := p, tag := tag, code := 0x15 } .ok []) :=
      (State.dictation_run hears linked dictated tag 0x15 _).trans
        (congrArg _ ((if_neg (by simp [closed])).trans (if_pos admits)))
    obtain ⟨u, sent, here, apart, others, out, touched⟩ := State.cue_answered (tag := tag) hears found .offRecordBegin none
      (fun t => { t with offRecordOpen := true }) (fun _ => rfl) (fun _ => rfl) (fun _ => rfl) (fun _ => rfl) 0x15 .ok []
    exact ⟨_, u, sent, run, here, apart, others, out, touched⟩
  · have run : exec (.restrictBegin p tag level) s = .next ((((g.placeCue t.id t.endTime .restrictBegin (some l)
        .recorder).updTake t.id (fun t => { t with restrictOpen := s.lowestCue })).signalCue t.id t.endTime
          .restrictBegin).replyClamped { port := p, tag := tag, code := 0x17 } (l ≠ level) [.level l]) := by
      refine (State.dictation_run hears linked dictated tag 0x17 _).trans
        (congrArg _ ((if_neg (by simp [closed])).trans ((if_pos admits).trans ?_)))
      rw [clamp_eq 1 3 level (by omega), (SameCues.goodFrame s p).lowestCue]
    rw [State.replyClamped_answer] at run
    have answered := State.cue_answered (tag := tag) hears found .restrictBegin (some l)
      (fun t => { t with restrictOpen := s.lowestCue }) (fun _ => rfl) (fun _ => rfl) (fun _ => rfl) (fun _ => rfl) 0x17
    by_cases same : l = level
    · rw [if_pos same] at run
      obtain ⟨u, sent, here, apart, others, out, touched⟩ := answered .ok []
      exact ⟨_, u, sent, run, here, apart, others, by rw [if_pos same]; exact out, touched⟩
    · rw [if_neg same] at run
      obtain ⟨u, sent, here, apart, others, out, touched⟩ := answered .clamped [.level l]
      exact ⟨_, u, sent, run, here, apart, others, by rw [if_neg same]; exact out, touched⟩

/-- Settles O26. -/
theorem spanEndsCloseTheSpan : Obligations.SpanEndsCloseTheSpan := by
  intro p tag s t hears linked dictated ids room g
  have found := State.take?_of_linkTake ids linked
  have admits : g.admitsClosing = true := by
    simpa [State.admitsClosing, (SameCues.goodFrame s p).cueFree, g] using room
  refine ⟨fun opened => ?_, fun i opened => ?_⟩
  · have run : exec (.offRecordEnd p tag) s = .next ((((g.placeCue t.id t.endTime .offRecordEnd t.openOffRecord
        .recorder).updTake t.id (fun t => { t with offRecordOpen := false })).signalCue t.id t.endTime
          .offRecordEnd).reply { port := p, tag := tag, code := 0x16 } .ok []) :=
      (State.dictation_run hears linked dictated tag 0x16 _).trans
        (congrArg _ ((if_pos opened).trans (if_pos admits)))
    obtain ⟨u, sent, here, apart, others, out, touched⟩ := State.cue_answered (tag := tag) hears found .offRecordEnd
      t.openOffRecord (fun t => { t with offRecordOpen := false }) (fun _ => rfl) (fun _ => rfl) (fun _ => rfl)
      (fun _ => rfl) 0x16 .ok []
    exact ⟨_, u, sent, run, here, apart, others, out, touched⟩
  · have run : exec (.restrictEnd p tag) s = .next ((((g.placeCue t.id t.endTime .restrictEnd (some i)
        .recorder).updTake t.id (fun t => { t with restrictOpen := none })).signalCue t.id t.endTime
          .restrictEnd).reply { port := p, tag := tag, code := 0x18 } .ok []) := by
      rw [← opened]
      exact (State.dictation_run hears linked dictated tag 0x18 _).trans
        (congrArg _ ((if_pos (by simp [opened])).trans (if_pos admits)))
    obtain ⟨u, sent, here, apart, others, out, touched⟩ := State.cue_answered (tag := tag) hears found .restrictEnd
      (some i) (fun t => { t with restrictOpen := none }) (fun _ => rfl) (fun _ => rfl) (fun _ => rfl) (fun _ => rfl)
      0x18 .ok []
    exact ⟨_, u, sent, run, here, apart, others, out, touched⟩

/-! ### Readback -/

theorem even_of_mod {n : Nat} (halves : n % 2 = 0) : even n = n := by unfold even; omega

theorem TakeBecomes.createCtx (found : s.take? n = some t) (p : PortNo) (kind : CtxKind) (start stop cursor : Nat)
    (mode : Mode) (closed : Bool) : TakeBecomes n s (s.createCtx p kind n start stop cursor mode closed)
      { t with readers := t.readers + 1 } := by
  unfold State.createCtx
  have counted := updTake (s := (s.setCtx p (some
    { take := n, kind := kind, startBound := start, endBound := stop, cursor := clamp start stop (even cursor)
      mode := mode, pacing := .onData, stack := [], readAhead := [], outstanding := false
      stretch := false, damagedCount := 0, silenced := false, closedAtBegin := closed })).setLastDamage p none) found
    (fun t => { t with readers := t.readers + 1 })
  exact ⟨counted.here, counted.others⟩

theorem State.ctx_createCtx (s : State) (p q : PortNo) (kind : CtxKind) (take start stop cursor : Nat) (mode : Mode)
    (closed : Bool) : (s.createCtx p kind take start stop cursor mode closed).ctx q = if q = p then some
      { take := take, kind := kind, startBound := start, endBound := stop, cursor := clamp start stop (even cursor)
        mode := mode, pacing := .onData, stack := [], readAhead := [], outstanding := false
        stretch := false, damagedCount := 0, silenced := false, closedAtBegin := closed } else s.ctx q := by
  simp [State.createCtx]

/-- What the swap to readback touches, but for its reply (R134). -/
abbrev beginParts : List Part := [.link, .intake, .ctx, .damage, .takes, .cues, .cueArrival]

/-- Settles O28. -/
theorem readbackBeginsOnThePausedTake : Obligations.ReadbackBeginsOnThePausedTake := by
  intro p tag form value k named below s t hears attached linked paused ids even_end form_is target g cursor
  have found : g.take? t.id = some t := by simpa [g] using State.take?_of_linkTake ids linked
  let c : Cmd := { port := p, tag := tag, code := 0x19 }
  let reading := g.updTake t.id (fun t => { t with state := .readback })
  let cued := reading.placeIfAdmitted t.id t.endTime .readbackBegin none .recorder
  let roled := cued.updLink p (fun l => { l with role := some .reader })
  let cleared := roled.clearDiscard p
  let loaded := cleared.createCtx p .reader t.id 0 t.endTime cursor .stopped false
  let result : Result := if below || cursor ≠ named then .clamped else .ok
  let items : List Item := [.takeId t.id, .time cursor, .time t.endTime,
    .cueIndex (if s.admitsOrdinary then s.lowestCue else none)]
  have cues := SameCues.goodFrame s p
  have named_cursor : clamp 0 t.endTime (even named) = cursor := by
    rw [clamp_zero, Nat.min_comm]; rfl
  have cursor_stands : clamp 0 t.endTime (even cursor) = cursor := by
    have halves : cursor % 2 = 0 := by unfold cursor; omega
    rw [clamp_zero, even_of_mod halves]
    exact Nat.min_eq_right (Nat.min_le_right _ _)
  have run : exec (.readbackBegin p tag form value) s = .next (loaded.reply c result items) := by
    refine (State.take_run (.inl hears) linked tag 0x19 _).trans (congrArg _ ?_)
    simp only [form_is, paused, attached, target]
    simp only [ne_eq, not_true_eq_false, if_false, reduceCtorEq, decide_false, Bool.false_eq_true]
    simp only [State.beginReadback, named_cursor, State.ordinaryIndex, cues.admitsOrdinary, cues.lowestCue]
    rfl
  have begun := TakeBecomes.updTake found (fun t => { t with state := .readback })
  have starts : Touches [.takes] g reading :=
    State.updTake_touches'' _ _ _ (fun _ => rfl) (fun _ => rfl) (fun _ => rfl) (fun _ => rfl)
  have begun_cues : SameCues s reading := cues.trans (.of_touches starts)
  have placed := begun.trans (TakeBecomes.placeIfAdmitted begun.here t.endTime .readbackBegin none .recorder)
  rw [begun_cues.withCueIf, begun_cues.admitsOrdinary] at placed
  have read := (placed.then_touches (State.updLink_touches cued p _)).then_touches (State.clearDiscard_touches roled p)
  have becomes := (read.trans (.createCtx read.here p .reader 0 t.endTime cursor .stopped false)).then_touches
    (State.reply_touches loaded c result items)
  have before : Touches [.takes, .cues, .cueArrival] g cued :=
    .seq starts (reading.placeIfAdmitted_touches _ _ _ _ _)
  have loading : Touches [.ctx, .damage, .takes] cleared loaded := cleared.createCtx_touches _ _ _ _ _ _ _ _
  have link : loaded.link p = { g.link p with role := some .reader } := by
    rw [loading.link rfl, (roled.clearDiscard_touches p).link rfl, State.link_updLink, if_pos rfl, before.link rfl]
  have out : loaded.out = g.out := by
    rw [loading.get .out rfl, (roled.clearDiscard_touches p).get .out rfl, (cued.updLink_touches p _).get .out rfl,
      before.get .out rfl]
  refine ⟨_, run, ?_, ?_, ?_, ?_, ?_, ?_, ?_⟩
  · exact becomes.here
  · exact fun m other => (becomes.others m other).trans (by simp [g])
  · rw [State.link_reply, link]
  · rw [State.ctx_reply, State.ctx_createCtx, if_pos rfl, cursor_stands]
  · rw [State.intake_reply, loading.get .intake rfl]
    exact congrArg Intake.discard ((State.intake_setIntake _ _ _ _).trans (if_pos rfl))
  · rw [State.out_reply_sent (by rw [link]; exact hears.takes_frames), out]
  · have parts : Touches beginParts g loaded := .seq before (.seq (ps := beginParts) (State.updLink_touches cued p _)
      (.seq (ps := beginParts) (State.clearDiscard_touches roled p) loading))
    exact .seq (s.goodFrame_touches p) (.seq (ps := .out :: beginParts) parts (State.reply_touches _ _ _ _))

/-- Settles O29. -/
theorem readbackEndsInPause : Obligations.ReadbackEndsInPause := by
  intro p tag s t x hears linked reading ids ctx over_it g
  have found : g.take? t.id = some t := by simpa [g] using State.take?_of_linkTake ids linked
  let c : Cmd := { port := p, tag := tag, code := 0x1A }
  let ended := g.endReadback p t .recorder false
  let items : List Item := [.takeId t.id, .cueIndex (if s.admitsClosing then s.lowestCue else none)]
  have cues := SameCues.goodFrame s p
  have run : exec (.readbackEnd p tag) s = .next (ended.reply c .ok items) := by
    refine (State.take_run (.inr hears) linked tag 0x1A _).trans (congrArg _ ((if_pos reading).trans ?_))
    rw [State.closingIndex, cues.admitsClosing, cues.lowestCue]
    rfl
  have becomes := (TakeBecomes.endReadback found (by simpa [g] using ctx) over_it .recorder false).then_touches
    (State.reply_touches _ c .ok items)
  rw [cues.withCueIf, cues.admitsClosing] at becomes
  have ending : Touches readerParts g ended := g.endReadback_touches _ _ _ _
  have link : ended.link p = { g.link p with role := some .recorder } :=
    (g.link_endReadback p t .recorder false p).trans (if_pos rfl)
  refine ⟨_, run, becomes.here, fun m other => (becomes.others m other).trans (by simp [g]), ?_, ?_, ?_, ?_, ?_⟩
  · rw [State.link_reply, link]
  · rw [State.ctx_reply, State.ctx_endReadback, if_pos rfl]
  · rw [State.intake_reply]
    exact g.discard_endReadback p t .recorder false
  · rw [State.out_reply_sent (by rw [link]; exact hears.takes_frames), ending.get .out rfl]
  · exact .seq (s.goodFrame_touches p) (.seq (ps := .out :: readerParts) ending (State.reply_touches _ _ _ _))

end

end Sys2Proof.Machine

/-!
PROOFS. The close of a take (1.2): its closing cues, its open block and the record that a cut test then finds.
-/

namespace Sys2Proof.Machine

set_option Elab.async false

section
variable {s v w x g : State} {p q : PortNo} {t u : Take} {n : Nat} {cues : List Cue}

/-! ### Cues are only added -/

theorem insertCue_perm (new : Cue) (l : List Cue) : (insertCue new l).Perm (new :: l) := by
  induction l with
  | nil => exact .refl _
  | cons d l ih =>
    unfold insertCue
    split
    · exact (ih.cons d).trans (.swap new d l)
    · exact .refl _

theorem State.mem_withCueIf (s : State) (admitted : Bool) (time : Nat) (kind : CueKind) (value : Option Nat)
    (origin : Origin) {e : Cue} (listed : e ∈ cues) : e ∈ s.withCueIf admitted time kind value origin cues := by
  unfold State.withCueIf State.withCue
  split
  · split
    · exact (insertCue_perm _ _).mem_iff.2 (List.mem_cons_of_mem _ listed)
    · exact listed
  · exact listed

/-- From `s` to `v` the take `n`, which was `t`, becomes `u` but for cues that join its list. -/
def TakeGains (n : Nat) (s v : State) (t u : Take) : Prop :=
  ∃ cues, (∀ e ∈ t.cues, e ∈ cues) ∧ TakeBecomes n s v { u with cues := cues }

namespace TakeGains

theorem of_becomes (becomes : TakeBecomes n s v u) (kept : ∀ e ∈ t.cues, e ∈ u.cues) : TakeGains n s v t u :=
  ⟨u.cues, kept, becomes⟩

theorem then_touches (gains : TakeGains n s v t u) {ps : List Part} (touched : Touches ps v w)
    (outside : ps.contains .takes = false := by rfl) : TakeGains n s w t u := by
  obtain ⟨cues, kept, becomes⟩ := gains
  exact ⟨cues, kept, becomes.then_touches touched outside⟩

theorem placeClosing (gains : TakeGains n s v t u) (time : Nat) (kind : CueKind) (value : Option Nat) (origin : Origin) :
    TakeGains n s (v.placeClosing n time kind value origin) t u := by
  obtain ⟨cues, kept, becomes⟩ := gains
  exact ⟨_, fun e listed => v.mem_withCueIf _ _ _ _ _ (kept e listed),
    becomes.trans (.placeClosing becomes.here time kind value origin)⟩

theorem updTake (gains : TakeGains n s v t u) (f : Take → Take) (id : ∀ t, (f t).id = t.id := by intro _; rfl)
    (cues : ∀ t l, f { t with cues := l } = { f t with cues := l } := by intro _ _; rfl) :
    TakeGains n s (v.updTake n f) t (f u) := by
  obtain ⟨l, kept, becomes⟩ := gains
  exact ⟨l, kept, cues u l ▸ becomes.trans (.updTake becomes.here f id)⟩

/-- The list is the one the state shows. -/
theorem becomes (gains : TakeGains n s v t u) : TakeBecomes n s v { u with cues := v.cuesOf n } := by
  obtain ⟨cues, -, becomes⟩ := gains
  rw [becomes.cuesOf]
  exact becomes

theorem kept (gains : TakeGains n s v t u) : ∀ e ∈ t.cues, e ∈ v.cuesOf n := by
  obtain ⟨cues, kept, becomes⟩ := gains
  rw [becomes.cuesOf]
  exact kept

end TakeGains

/-! ### The closing cues -/

/-- Step 1 of R6 on the cue list: the GAP of the recorder port. -/
def State.gapStep (s : State) (t : Take) : State :=
  match t.recPort with
  | none => s
  | some p => s.gapPlaced p t.id t.endTime

/-- Step 2 of R6 on the cue list. -/
def State.offRecordStep (s : State) (t : Take) : State :=
  if t.offRecordOpen then s.placeClosing t.id t.endTime .offRecordEnd t.openOffRecord .auto else s

/-- Step 3 of R6 on the cue list. -/
def State.restrictStep (s : State) (t : Take) : State :=
  match t.restrictOpen with
  | none => s
  | some i => s.placeClosing t.id t.endTime .restrictEnd (some i) .auto

theorem State.closingCues_eq (s : State) (t : Take) (limit : Bool) : s.closingCues t limit =
    if limit then (((s.gapStep t).offRecordStep t).restrictStep t).placeClosing t.id t.endTime .takeLimit none .auto
    else ((s.gapStep t).offRecordStep t).restrictStep t := rfl

theorem State.flag_touches (s : State) (n : Nat) (f : Take → Take) (id : ∀ t, (f t).id = t.id := by intro _; rfl)
    (chain : ∀ t, (f t).chain = t.chain := by intro _; rfl) (cues : ∀ t, (f t).cues = t.cues := by intro _; rfl)
    (stop : ∀ t, (f t).endTime = t.endTime := by intro _; rfl) : Touches [.takes] s (s.updTake n f) :=
  State.updTake_touches'' s n f id chain cues stop

theorem SameCues.settlePort (s : State) (t : Take) : SameCues (s.gapStep t) (s.settlePort t) := by
  unfold State.gapStep State.settlePort
  cases t.recPort with
  | none => exact .refl s
  | some p => exact .settled s p t.id t.endTime

theorem SameCues.closeOffRecord (same : SameCues s v) (t : Take) :
    SameCues (s.offRecordStep t) (v.closeOffRecord t) := by
  unfold State.offRecordStep State.closeOffRecord
  split
  · exact (same.placeClosing _ _ _ _ _).trans (.of_touches (State.flag_touches _ _ _))
  · exact same

theorem SameCues.closeRestricted (same : SameCues s v) (t : Take) :
    SameCues (s.restrictStep t) (v.closeRestricted t) := by
  unfold State.restrictStep State.closeRestricted
  cases t.restrictOpen with
  | none => exact same
  | some i => exact (same.placeClosing _ _ _ _ _).trans (.of_touches (State.flag_touches _ _ _))

/-! ### The steps of a close -/

/-- The state of a close once its cues stand: steps 1 to 4 of R6. -/
def State.closeCued (s : State) (t : Take) (limit : Bool) : State :=
  let s := ((s.settlePort t).closeOffRecord t).closeRestricted t
  if limit then s.placeClosing t.id t.endTime .takeLimit none .auto else s

/-- The state of a close before its cut test: steps 1 to 7 of R6. -/
def State.closed (s : State) (t : Take) (limit : Bool) : State :=
  let s := ((s.closeCued t limit).closeOpenBlock t.id).settleDiscard t
  s.updTake t.id (fun t => { t with state := .closed, closedAt := some s.clock, recPort := none })

theorem State.closeTake_eq (s : State) (t : Take) (limit : Bool) :
    s.closeTake t limit = (s.closed t limit).cutTest t.id false := by
  cases limit <;> rfl

theorem SameCues.closeCued (s : State) (t : Take) (limit : Bool) :
    SameCues (s.closingCues t limit) (s.closeCued t limit) := by
  have before := ((SameCues.settlePort s t).closeOffRecord t).closeRestricted t
  rw [State.closingCues_eq]
  cases limit with
  | false => exact before
  | true => exact before.placeClosing _ _ _ _ _

theorem State.closeCued_touches (s : State) (t : Take) (limit : Bool) : Touches gapParts s (s.closeCued t limit) := by
  have before : Touches gapParts s (((s.settlePort t).closeOffRecord t).closeRestricted t) :=
    .seq (s.settlePort_touches t) (.seq (ps := gapParts) (State.closeOffRecord_touches _ t)
      (State.closeRestricted_touches _ t))
  cases limit with
  | false => exact before
  | true => exact .seq before (State.placeClosing_touches _ _ _ _ _ _)

/-- What a close touches before its cut test. -/
abbrev closedParts : List Part := [.intake, .takes, .cues, .cueArrival, .directory, .arbiter]

theorem State.closed_touches (s : State) (t : Take) (limit : Bool) : Touches closedParts s (s.closed t limit) :=
  .seq (s.closeCued_touches t limit) (.seq (ps := closedParts) (State.closeOpenBlock_touches _ _)
    (.seq (ps := closedParts) (State.settleDiscard_touches _ t) (State.flag_touches _ _ _)))

/-- The take as its close leaves it (R6). -/
def Take.closedBy (t : Take) (clock : Nat) (cues : List Cue) : Take :=
  { t with state := .closed, closedAt := some clock, recPort := none, offRecordOpen := false, restrictOpen := none
           cues := cues }

theorem TakeGains.settlePort (found : s.take? t.id = some t) : TakeGains t.id s (s.settlePort t) t t := by
  unfold State.settlePort
  cases t.recPort with
  | none => exact .of_becomes ⟨found, fun _ _ => rfl⟩ fun _ => id
  | some p =>
    refine .of_becomes (u := { t with cues := (s.gapPlaced p t.id t.endTime).cuesOf t.id })
      (TakeBecomes.settled found p t.endTime) fun e listed => ?_
    unfold State.gapPlaced
    split
    · exact (State.cuesOf_of_take? found).symm ▸ listed
    · rw [(TakeBecomes.placeClosing found _ _ _ _).cuesOf]
      exact s.mem_withCueIf _ _ _ _ _ listed

theorem TakeGains.closeOffRecord (gains : TakeGains t.id s v t t) :
    TakeGains t.id s (v.closeOffRecord t) t { t with offRecordOpen := false } := by
  unfold State.closeOffRecord
  split
  · exact (gains.placeClosing _ _ _ _).updTake (fun t => { t with offRecordOpen := false })
  · next shut =>
    rw [show ({ t with offRecordOpen := false } : Take) = t by rw [← Bool.eq_false_iff.2 shut]]
    exact gains

theorem TakeGains.closeRestricted (gains : TakeGains t.id s v t u) (same : u.restrictOpen = t.restrictOpen) :
    TakeGains t.id s (v.closeRestricted t) t { u with restrictOpen := none } := by
  unfold State.closeRestricted
  split
  · next shut =>
    rw [show ({ u with restrictOpen := none } : Take) = u by rw [← shut, ← same]]
    exact gains
  · exact (gains.placeClosing _ _ _ _).updTake (fun t => { t with restrictOpen := none })

theorem TakeGains.closeCued (found : s.take? t.id = some t) (limit : Bool) :
    TakeGains t.id s (s.closeCued t limit) t { t with offRecordOpen := false, restrictOpen := none } := by
  have before := (TakeGains.settlePort found).closeOffRecord.closeRestricted rfl
  cases limit with
  | false => exact before
  | true => exact before.placeClosing _ _ _ _

/-- What a close makes of its take: the closing cues stand, and no cue is lost. -/
theorem TakeBecomes.closed (found : s.take? t.id = some t) (limit : Bool) :
    TakeBecomes t.id s (s.closed t limit) (t.closedBy s.clock ((s.closingCues t limit).cuesOf t.id)) ∧
      ∀ e ∈ t.cues, e ∈ (s.closingCues t limit).cuesOf t.id := by
  have gains := TakeGains.closeCued found limit
  have becomes := (gains.becomes.then_touches (State.closeOpenBlock_touches _ t.id)).then_touches
    (State.settleDiscard_touches _ t)
  have cues := (SameCues.closeCued s t limit).cuesOf t.id
  rw [cues] at becomes
  refine ⟨?_, fun e listed => cues ▸ gains.kept e listed⟩
  let r := ((s.closeCued t limit).closeOpenBlock t.id).settleDiscard t
  have clock : r.clock = s.clock := by
    rw [(State.settleDiscard_touches _ t).get .clock rfl, (State.closeOpenBlock_touches _ t.id).get .clock rfl,
      (s.closeCued_touches t limit).get .clock rfl]
  have done := becomes.trans (.updTake becomes.here fun t => { t with
    state := .closed, closedAt := some r.clock, recPort := none })
  rw [clock] at done
  unfold State.closed
  dsimp only
  rw [show (((s.closeCued t limit).closeOpenBlock t.id).settleDiscard t).clock = s.clock from clock]
  exact done

/-! ### The port of a close -/

theorem State.openBuf_of_bufs (same : ∀ k, (v.intake p).buf k = (s.intake p).buf k) (n : Nat) :
    v.openBuf p n = s.openBuf p n := by
  have first : (v.intake p).buf0 = (s.intake p).buf0 := same false
  have second : (v.intake p).buf1 = (s.intake p).buf1 := same true
  unfold State.openBuf
  rw [first, second]

theorem State.openPort_of_bufs (same : ∀ q k, (v.intake q).buf k = (s.intake q).buf k) (n : Nat) :
    v.openPort n = s.openPort n := by
  unfold State.openPort
  exact congrArg (fun f => allPorts.find? f) (funext fun q => by rw [State.openBuf_of_bufs (same q)])

theorem Intake.buf_congr {i j : Intake} (first : i.buf0 = j.buf0) (second : i.buf1 = j.buf1) (k : Bool) :
    i.buf k = j.buf k := by
  unfold Intake.buf
  rw [first, second]

theorem State.intake_closeCued (s : State) (t : Take) (limit : Bool) (q : PortNo) :
    (s.closeCued t limit).intake q = (s.settlePort t).intake q := by
  have off : ((s.settlePort t).closeOffRecord t).intake = (s.settlePort t).intake := by
    unfold State.closeOffRecord
    split
    · exact funext fun q => (State.placeClosing_touches _ _ _ _ _ _).get .intake rfl q
    · rfl
  have restricted (u : State) : (u.closeRestricted t).intake = u.intake := by
    unfold State.closeRestricted
    split
    · rfl
    · exact funext fun q => (State.placeClosing_touches _ _ _ _ _ _).get .intake rfl q
  have before : (((s.settlePort t).closeOffRecord t).closeRestricted t).intake = (s.settlePort t).intake :=
    (restricted _).trans off
  cases limit with
  | false => exact congrFun before q
  | true => exact ((State.placeClosing_touches _ _ _ _ _ _).get .intake rfl q).trans (congrFun before q)

theorem State.buf_settlePort (s : State) (t : Take) (q : PortNo) (k : Bool) :
    ((s.settlePort t).intake q).buf k = (s.intake q).buf k := by
  unfold State.settlePort
  cases t.recPort with
  | none => rfl
  | some p =>
    rw [State.intake_closeGap_endRun]
    split
    · next here => exact here ▸ Intake.buf_congr rfl rfl k
    · rfl

/-- A block that closes changes a buffer of its port alone. -/
theorem State.intake_closeOpenBlock (s : State) (n : Nat) (q : PortNo) :
    ((s.closeOpenBlock n).intake q).run = (s.intake q).run ∧ ((s.closeOpenBlock n).intake q).gap = (s.intake q).gap := by
  unfold State.closeOpenBlock
  split
  · exact ⟨rfl, rfl⟩
  · next r _ =>
    split
    · exact ⟨rfl, rfl⟩
    · next k _ =>
      cases opened : (s.intake r).buf k with
      | assembling b m start recs =>
        rw [State.intake_closeBlock opened, State.intake_setBuf]
        split
        · next here => subst here; cases k <;> exact ⟨rfl, rfl⟩
        · exact ⟨rfl, rfl⟩
      | empty => unfold State.closeBlock; rw [opened]; exact ⟨rfl, rfl⟩
      | writing b m start recs => unfold State.closeBlock; rw [opened]; exact ⟨rfl, rfl⟩

theorem State.intake_settleDiscard (s : State) (t : Take) (q : PortNo) : (s.settleDiscard t).intake q =
    if t.recPort = some q then { s.intake q with discard := false } else s.intake q := by
  unfold State.settleDiscard State.clearDiscard
  cases t.recPort with
  | none => simp
  | some p =>
    simp only [State.intake_setIntake, Option.some.injEq]
    by_cases here : p = q
    · subst here; simp
    · simp [here, Ne.symm here]

/-- The port of a take at its close: its open block is being written, and its run, gap and discard flag end. -/
theorem State.intake_closed (s : State) (t : Take) (limit : Bool) (q : PortNo) :
    (∀ k b start recs, s.openPort t.id = some q → s.openBuf q t.id = some k →
      (s.intake q).buf k = .assembling b t.id start recs →
      ((s.closed t limit).intake q).buf k = .writing b t.id start recs) ∧
    (t.recPort = some q → ((s.closed t limit).intake q).run = none ∧ ((s.closed t limit).intake q).gap = none ∧
      ((s.closed t limit).intake q).discard = false) := by
  have cued (q : PortNo) (k : Bool) : ((s.closeCued t limit).intake q).buf k = (s.intake q).buf k := by
    rw [State.intake_closeCued, State.buf_settlePort]
  have final : (s.closed t limit).intake q =
      (((s.closeCued t limit).closeOpenBlock t.id).settleDiscard t).intake q := State.intake_updTake _ _ _ _
  refine ⟨fun k b start recs port buffer opened => ?_, fun recorder => ?_⟩
  · have written := State.buf_closeOpenBlock ((State.openPort_of_bufs cued t.id).trans port)
      ((State.openBuf_of_bufs (cued q) t.id).trans buffer) ((cued q k).trans opened)
    rw [final, State.intake_settleDiscard]
    split
    · exact (Intake.buf_congr rfl rfl k).trans written
    · exact written
  · obtain ⟨run, gap⟩ := (s.closeCued t limit).intake_closeOpenBlock t.id q
    have settled : (s.closeCued t limit).intake q = ((s.endRun q).closeGap q t.id t.endTime).intake q := by
      rw [State.intake_closeCued, State.settlePort, recorder]
    rw [settled, State.intake_closeGap_endRun, if_pos rfl] at run gap
    rw [final, State.intake_settleDiscard, if_pos recorder]
    exact ⟨run, gap, rfl⟩

/-! ### From a good frame -/

theorem SameCues.closingCues (same : SameCues s v) (gap : ∀ p, (v.intake p).gap = (s.intake p).gap) (t : Take)
    (limit : Bool) : SameCues (s.closingCues t limit) (v.closingCues t limit) := by
  have first : SameCues (s.gapStep t) (v.gapStep t) := by
    unfold State.gapStep
    cases t.recPort with
    | none => exact same
    | some p => exact same.gapPlaced (gap p) _ _
  have second : SameCues ((s.gapStep t).offRecordStep t) ((v.gapStep t).offRecordStep t) := by
    unfold State.offRecordStep
    split
    · exact first.placeClosing _ _ _ _ _
    · exact first
  have third : SameCues (((s.gapStep t).offRecordStep t).restrictStep t) (((v.gapStep t).offRecordStep t).restrictStep t) := by
    unfold State.restrictStep
    cases t.restrictOpen with
    | none => exact second
    | some i => exact second.placeClosing _ _ _ _ _
  rw [State.closingCues_eq, State.closingCues_eq]
  cases limit with
  | false => exact third
  | true => exact third.placeClosing _ _ _ _ _

/-- A close that begins with a good frame closes the take as from the state before it. -/
theorem TakeBecomes.closed_goodFrame (found : s.take? t.id = some t) (p : PortNo) (limit : Bool) :
    TakeBecomes t.id s ((s.goodFrame p).closed t limit) (t.closedBy s.clock ((s.closingCues t limit).cuesOf t.id)) ∧
      ∀ e ∈ t.cues, e ∈ (s.closingCues t limit).cuesOf t.id := by
  have same := (SameCues.goodFrame s p).closingCues (fun q => by simp) t limit
  have closed := TakeBecomes.closed (s := s.goodFrame p) (t := t) (by simpa using found) limit
  rw [same.cuesOf, State.goodFrame_clock] at closed
  exact ⟨⟨closed.1.here, fun m other => (closed.1.others m other).trans (by simp)⟩, closed.2⟩

theorem State.readyToCut_of_touches {ps : List Part} (touched : Touches ps s w)
    (outside : [Part.chunks, .deferral, .arrivalSeq, .pools, .clock].all (fun x => !ps.contains x) = true := by rfl) :
    s.readyToCut w :=
  ⟨touched.same_of_reads outside (x := .chunks) (by simp), touched.same_of_reads outside (x := .deferral) (by simp),
    touched.same_of_reads outside (x := .arrivalSeq) (by simp), touched.same_of_reads outside (x := .pools) (by simp),
    touched.same_of_reads outside (x := .clock) (by simp)⟩

/-- Settles O23: the close up to its cut test, the test, and the reply. -/
theorem closeTakeClosesTheTake : Obligations.CloseTakeClosesTheTake := by
  intro p tag s t c code ids found closes
  obtain ⟨takes, run⟩ : ((s.goodFrame p).link p).takesFrames = true ∧ exec c s =
      .next (((s.goodFrame p).closeTake t false).reply { port := p, tag := tag, code := code } .ok []) := by
    rcases closes with ⟨rfl, rfl, hears, linked, other⟩ | ⟨rfl, rfl, hears, orphaned⟩
    · exact ⟨hears.takes_frames, (State.take_run (.inl hears) linked tag 0x13 _).trans (congrArg _ (if_neg other))⟩
    · refine ⟨hears.takes_frames, (State.role_run hears tag 0x40 _).trans (congrArg _ ?_)⟩
      simp only [State.take?_goodFrame, found]
      exact if_pos orphaned
  let w := (s.goodFrame p).closed t false
  rw [State.closeTake_eq] at run
  obtain ⟨becomes, kept⟩ := TakeBecomes.closed_goodFrame found p false
  have closed : Touches closedParts (s.goodFrame p) w := (s.goodFrame p).closed_touches t false
  have tested : Touches cutParts w (w.cutTest t.id false) := w.cutTest_touches t.id false
  have touched : Touches closeParts (s.goodFrame p) (w.cutTest t.id false) := .seq closed tested
  obtain ⟨y, cut, apart⟩ := CutsOnly.cutTest t.id false w _ becomes.here
  have answered := (becomes.trans cut).then_touches
    (State.reply_touches (w.cutTest t.id false) { port := p, tag := tag, code := code } .ok [])
  obtain ⟨sent, out⟩ := touched.get .grows rfl
  have reply := State.reply_sent (s := w.cutTest t.id false) (c := { port := p, tag := tag, code := code }) .ok []
    (by rw [touched.link rfl]; exact takes)
  have intake (q : PortNo) : (((w.cutTest t.id false).reply { port := p, tag := tag, code := code } .ok []).intake q) =
      w.intake q := by
    rw [State.intake_reply, tested.get .intake rfl]
  refine ⟨_, y, sent, run, answered.here, apart, fun e listed => ?_, answered.others, ⟨w, ?_, ?_, reply⟩,
    fun q k b start recs port buffer opened => ?_, fun q recorder => ?_, ?_, ?_⟩
  · exact (congrArg Take.cues apart).symm ▸ kept e listed
  · exact State.readyToCut_of_touches (Touches.seq (ps := .link :: .out :: closedParts) (s.goodFrame_touches p) closed)
  · exact becomes.here.trans (congrArg some apart.symm)
  · rw [intake]
    have same (q : PortNo) : (s.goodFrame p).intake q = s.intake q := s.intake_goodFrame p q
    exact ((s.goodFrame p).intake_closed t false q).1 k b start recs ((State.openPort_congr same t.id).trans port)
      ((State.openBuf_congr (same q) t.id).trans buffer) (by rw [same]; exact opened)
  · rw [intake]
    exact ((s.goodFrame p).intake_closed t false q).2 recorder
  · rw [reply, out]
  · exact .seq (s.goodFrame_touches p) (.seq (ps := .link :: closeParts) touched (State.reply_touches _ _ _ _))

/-! ### Audio frames reach the Intake Unit -/

theorem State.audio_run {c : Instr} {r : Rec} (frame : AudioFrame p c r) (hears : s.hears p .recorder ∨ s.hears p .reader) :
    exec c s = .next ((s.goodFrame p).takeAudio p r) := by
  have running : s.resetHeld = false := by rcases hears with hears | hears <;> exact hears.1
  have attached : (s.link p).isAttached = true := by rcases hears with hears | hears <;> exact hears.2.1
  have role : (s.link p).role = some .recorder ∨ (s.link p).role = some .reader := hears.imp (·.2.2) (·.2.2)
  have takes := Link.takesFrames_of_isAttached attached
  cases frame with
  | speech coded =>
    change execAudioSpeech p coded s = _
    rw [execAudioSpeech, State.running_eq running, State.onFrame, if_pos takes]
    simp [attached, role]
  | silence n counted =>
    change execAudioSilence p n s = _
    rw [execAudioSilence, State.running_eq running, State.onFrame, if_pos takes]
    simp [attached, role, counted]

/-- Settles O32. -/
theorem audioIsDiscardedOnce : Obligations.AudioIsDiscardedOnce := by
  intro p c r s frame hears idle g
  have run : exec c s = .next (g.discardAudio p ((s.linkTake p).map (·.id))) := by
    refine (State.audio_run frame hears).trans (congrArg _ ?_)
    unfold State.takeAudio
    rw [State.linkTake_goodFrame]
    cases linked : s.linkTake p with
    | none => rfl
    | some t => exact if_neg (idle t linked)
  have intake : g.intake p = s.intake p := s.intake_goodFrame p p
  unfold State.discardAudio at run
  rw [intake] at run
  refine ⟨fun told => ?_, fun untold => ?_⟩
  · rw [if_pos told] at run
    exact run
  · rw [if_neg (by simp [untold]), State.notify_eq] at run
    refine run.trans ?_
    simp [State.noticeTo]

/-! ### The take limit -/

theorem cues_length_updTake {l : Table Take} (ids : (l.map (·.2.id)).Nodup) {f : Take → Take}
    (one : ∀ t, (f t).cues.length = t.cues.length + 1) (n : Nat) :
    ((l.map fun e => if e.2.id = n then (e.1, f e.2) else e).map fun e => e.2.cues.length).sum ≤
      (l.map fun e => e.2.cues.length).sum + 1 := by
  induction l with
  | nil => simp
  | cons e l ih =>
    obtain ⟨fresh, rest⟩ := List.nodup_cons.1 ids
    by_cases here : e.2.id = n
    · have same : (l.map fun e => if e.2.id = n then (e.1, f e.2) else e) = l := by
        refine (List.map_congr_left fun d listed => if_neg fun match_ => ?_).trans l.map_id
        exact fresh (List.mem_map.2 ⟨d, listed, match_.trans here.symm⟩)
      rw [List.map_cons, if_pos here, same]
      simp only [List.map_cons, List.sum_cons, one]
      omega
    · have := ih rest
      rw [List.map_cons, if_neg here]
      simp only [List.map_cons, List.sum_cons]
      omega

theorem State.usedCues_length (s : State) : s.usedCues.length = (s.takes.map fun e => e.2.cues.length).sum := by
  simp [State.usedCues, List.length_flatMap]

/-- A placed cue takes at most one entry of the pool. -/
theorem State.cueFree_placeClosing (ids : s.takeIds.Nodup) (n time : Nat) (kind : CueKind) (value : Option Nat)
    (origin : Origin) : s.cueFree ≤ (s.placeClosing n time kind value origin).cueFree + 1 := by
  unfold State.placeClosing
  split
  · unfold State.placeCue
    split
    · omega
    · next i _ =>
      have bound := cues_length_updTake (l := s.takes) ids (f := fun t => { t with
        cues := insertCue { index := i, time := time, kind := kind, arrival := s.cueArrival, value := value
                            origin := origin } t.cues }) (fun t => (insertCue_perm _ t.cues).length_eq) n
      unfold State.cueFree
      rw [State.usedCues_length, State.usedCues_length, State.takes_updTake]
      dsimp only
      omega
  · omega

theorem Touches.takeIds {ps : List Part} (touched : Touches ps s v) (outside : ps.contains .takeKeys = false := by rfl) :
    v.takeIds = s.takeIds := by
  have keys (u : State) : u.takeIds = u.takeKeys.map (·.2) := by simp [State.takeIds, State.takeKeys]
  rw [keys, keys, touched.get .takeKeys outside]

/-- A step of the closing cues: at most one cue, on that take. -/
def ClosingStep (n : Nat) (s v : State) : Prop :=
  v = s ∨ ∃ time kind value origin, v = s.placeClosing n time kind value origin

theorem ClosingStep.gap (s : State) (t : Take) : ClosingStep t.id s (s.gapStep t) := by
  unfold State.gapStep State.gapPlaced
  split
  · exact .inl rfl
  · split
    · exact .inl rfl
    · exact .inr ⟨_, _, _, _, rfl⟩

theorem ClosingStep.offRecord (s : State) (t : Take) : ClosingStep t.id s (s.offRecordStep t) := by
  unfold State.offRecordStep
  split
  · exact .inr ⟨_, _, _, _, rfl⟩
  · exact .inl rfl

theorem ClosingStep.restrict (s : State) (t : Take) : ClosingStep t.id s (s.restrictStep t) := by
  unfold State.restrictStep
  split
  · exact .inl rfl
  · exact .inr ⟨_, _, _, _, rfl⟩

/-- What a step leaves for the next: one entry fewer at most, the ids, and the take with its cues. -/
theorem ClosingStep.leaves (step : ClosingStep n s v) (ids : s.takeIds.Nodup) (found : s.take? n = some t) :
    s.cueFree ≤ v.cueFree + 1 ∧ v.takeIds.Nodup ∧ ∃ l, v.take? n = some { t with cues := l } := by
  rcases step with rfl | ⟨time, kind, value, origin, rfl⟩
  · exact ⟨Nat.le_succ _, ids, t.cues, found⟩
  · exact ⟨s.cueFree_placeClosing ids _ _ _ _ _, (s.placeClosing_touches _ _ _ _ _).takeIds ▸ ids, _,
      (TakeBecomes.placeClosing found time kind value origin).here⟩

/-- Four entries of the pool are enough for the cues of a close at the limit, TAKE_LIMIT the last of them. -/
theorem State.limit_placed (ids : s.takeIds.Nodup) (found : s.take? t.id = some t) (room : 4 ≤ s.cueFree) :
    ∃ e ∈ (s.closingCues t true).cuesOf t.id, e.kind = .takeLimit ∧ e.time = t.endTime := by
  obtain ⟨one, ids, l, found⟩ := (ClosingStep.gap s t).leaves ids found
  obtain ⟨two, ids, l, found⟩ := (ClosingStep.offRecord (s.gapStep t) t).leaves ids found
  obtain ⟨three, ids, l, found⟩ := (ClosingStep.restrict ((s.gapStep t).offRecordStep t) t).leaves ids found
  have left : 1 ≤ (((s.gapStep t).offRecordStep t).restrictStep t).cueFree := by omega
  obtain ⟨i, lowest⟩ := State.lowestCue_isSome left
  rw [State.closingCues_eq, if_pos rfl, (TakeBecomes.placeClosing found _ _ _ _).cuesOf]
  unfold State.withCueIf State.withCue
  rw [if_pos (by simpa [State.admitsClosing] using left), lowest]
  exact ⟨_, (insertCue_perm _ _).mem_iff.2 List.mem_cons_self, rfl, rfl⟩

/-- Settles O33. -/
theorem takeLimitClosesTheTake : Obligations.TakeLimitClosesTheTake := by
  intro p c r s t frame hears linked recording ids over_limit
  have found := State.take?_of_linkTake ids linked
  have run : exec c s = .next (((s.goodFrame p).closeTake t true).notify p (.takeLimit t.id t.endTime)) := by
    refine (State.audio_run frame (.inl hears)).trans (congrArg _ ?_)
    unfold State.takeAudio
    rw [State.linkTake_goodFrame, linked]
    exact (if_pos recording).trans (if_pos over_limit)
  let w := (s.goodFrame p).closed t true
  rw [State.closeTake_eq] at run
  obtain ⟨becomes, kept⟩ := TakeBecomes.closed_goodFrame found p true
  have touched : Touches closeParts (s.goodFrame p) (w.cutTest t.id false) :=
    .seq ((s.goodFrame p).closed_touches t true) (w.cutTest_touches t.id false)
  obtain ⟨y, cut, apart⟩ := CutsOnly.cutTest t.id false w _ becomes.here
  have told := State.notify_touches (w.cutTest t.id false) p (.takeLimit t.id t.endTime)
  have cues : y.cues = (s.closingCues t true).cuesOf t.id := congrArg Take.cues apart
  obtain ⟨sent, out⟩ := touched.get .grows rfl
  refine ⟨_, y, sent, run, ((becomes.trans cut).then_touches told).here, apart, fun e listed => ?_, fun room => ?_, ?_, ?_⟩
  · rw [cues]; exact kept e listed
  · rw [cues]; exact State.limit_placed ids found room
  · have same : ((w.cutTest t.id false).noticeTo p (.takeLimit t.id t.endTime)) =
        (s.goodFrame p).noticeTo p (.takeLimit t.id t.endTime) := by
      unfold State.noticeTo
      rw [touched.link rfl]
    rw [State.notify_eq, same, out]
  · exact .seq (s.goodFrame_touches p) (.seq (ps := .link :: closeParts) touched told)

end

end Sys2Proof.Machine

/-!
PROOFS. An audio frame of a RECORDING take (Chapter 2): its record joins the open block, obtains a block or is lost,
and then the silence run may place its AUTO_PAUSE.
-/

namespace Sys2Proof.Machine

set_option Elab.async false

section
variable {s v w x y g : State} {p q : PortNo} {t u : Take} {n : Nat} {r : Rec} {run : Option Run}

/-! ### Notices are addressed by the links -/

theorem State.noticeTo_congr (same : ∀ q, v.link q = s.link q) (p : PortNo) (m : Notice) :
    v.noticeTo p m = s.noticeTo p m := by
  unfold State.noticeTo
  rw [same]

theorem State.portsOf_congr (same : ∀ q, v.link q = s.link q) (roles : List Role) : v.portsOf roles = s.portsOf roles := by
  unfold State.portsOf
  simp only [same]

theorem State.noticesTo_congr (same : ∀ q, v.link q = s.link q) (ps : List PortNo) (m : Notice) :
    v.noticesTo ps m = s.noticesTo ps m := by
  unfold State.noticesTo
  simp only [State.noticeTo_congr same]

theorem State.deskNotices_congr (same : ∀ q, v.link q = s.link q) (m : Notice) : v.deskNotices m = s.deskNotices m := by
  unfold State.deskNotices
  rw [State.portsOf_congr same, State.noticesTo_congr same]

/-! ### A block is needed -/

/-- From `s` to `x` a frame of the take has noted its run, and its full block may have closed: what obtaining a block
or losing the frame reads stands as in `s`. -/
structure FrameAt (p : PortNo) (t : Take) (run : Option Run) (s x : State) : Prop where
  becomes : TakeBecomes t.id s x t
  cues : SameCues s x
  run : (x.intake p).run = run
  gap : (x.intake p).gap = (s.intake p).gap
  starving : (x.intake p).starving = (s.intake p).starving
  free : x.free = s.free
  link : ∀ q, x.link q = (s.goodFrame p).link q
  out : x.out = (s.goodFrame p).out

theorem State.intake_allocate {b : Nat} {rest : FreeList} (pop : s.free.pop = some (b, rest)) (k : Bool) (n start : Nat)
    (r : Rec) (q : PortNo) :
    (s.allocate p k n start r).intake q = (s.setBuf p k (.assembling b n start [r])).intake q := by
  unfold State.allocate
  rw [pop]
  exact ((State.testLow_touches _).get .intake rfl q).trans rfl

theorem State.free_allocate {b : Nat} {rest : FreeList} (pop : s.free.pop = some (b, rest)) (k : Bool) (n start : Nat)
    (r : Rec) : (s.allocate p k n start r).free = rest ∧
      Table.find (s.allocate p k n start r).directory b = some
        { state := .assembling, owner := n, port := some p, start := start, duration := none, bytesUsed := none
          check := none } := by
  unfold State.allocate
  rw [pop]
  refine ⟨((State.testLow_touches _).get .free rfl).trans rfl, ?_⟩
  rw [(State.testLow_touches _).get .directory rfl]
  exact TableLaws.find_put_self _ _

theorem TakeBecomes.allocate {b : Nat} {rest : FreeList} (pop : s.free.pop = some (b, rest)) (found : s.take? n = some t)
    (k : Bool) (start : Nat) (r : Rec) :
    TakeBecomes n s (s.allocate p k n start r) { t with chain := t.chain ++ [(b, start)] } := by
  let staged := State.setBuf { s with
    free := rest
    directory := Table.put s.directory b
      { state := .assembling, owner := n, port := some p, start := start, duration := none, bytesUsed := none
        check := none } } p k (.assembling b n start [r])
  have takes : staged.takes = s.takes := (State.setBuf_touches _ p k _).get .takes rfl
  have same (m : Nat) : staged.take? m = s.take? m := by unfold State.take?; rw [takes]
  have joined := TakeBecomes.updTake ((same n).trans found) fun t => { t with chain := t.chain ++ [(b, start)] }
  have done := joined.then_touches (State.testLow_touches _)
  unfold State.allocate
  rw [pop]
  exact ⟨done.here, fun m other => (done.others m other).trans (same m)⟩

/-- What the storing of a record leaves of its take and of the run: the chain is `chain`, and the cues are those of
`h`. -/
structure RecordTaken (p : PortNo) (t : Take) (run : Option Run) (chain : List (Nat × Nat)) (h s v : State) : Prop where
  becomes : TakeBecomes t.id s v { t with chain := chain, cues := h.cuesOf t.id }
  cues : SameCues h v
  run : (v.intake p).run = run

/-- A frame has a block: buffer `k` of the port holds it, and the gap that was tracked has its cue (R32, R37). -/
structure BlockObtained (p : PortNo) (t : Take) (r : Rec) (s x v : State) (k : Bool) (b : Nat) (rest : FreeList) :
    Prop where
  buf : (v.intake p).buf k = .assembling b t.id t.endTime [r]
  other : (v.intake p).buf (!k) = (x.intake p).buf (!k)
  free : v.free = rest
  entry : Table.find v.directory b = some
    { state := .assembling, owner := t.id, port := some p, start := t.endTime, duration := none, bytesUsed := none
      check := none }
  gap : (v.intake p).gap = none
  starving : (v.intake p).starving = ((s.intake p).starving && (s.intake p).gap.isNone)

theorem State.obtained (at_ : FrameAt p t run s x) {k : Bool} {b : Nat} {rest : FreeList}
    (pop : s.free.pop = some (b, rest)) :
    BlockObtained p t r s x ((x.allocate p k t.id t.endTime r).closeGap p t.id t.endTime) k b rest ∧
      RecordTaken p t run (t.chain ++ [(b, t.endTime)]) (s.gapPlaced p t.id t.endTime) s
        ((x.allocate p k t.id t.endTime r).closeGap p t.id t.endTime) := by
  rw [← at_.free] at pop
  let a := x.allocate p k t.id t.endTime r
  have intake : a.intake p = (x.setBuf p k (.assembling b t.id t.endTime [r])).intake p :=
    State.intake_allocate pop k t.id t.endTime r p
  have gap : (a.intake p).gap = (s.intake p).gap := by
    rw [intake, State.intake_setBuf, if_pos rfl, ← at_.gap]; cases k <;> rfl
  have starving : (a.intake p).starving = (s.intake p).starving := by
    rw [intake, State.intake_setBuf, if_pos rfl, ← at_.starving]; cases k <;> rfl
  have noted : (a.intake p).run = run := by
    rw [intake, State.intake_setBuf, if_pos rfl, ← at_.run]; cases k <;> rfl
  have closed := a.intake_closeGap p t.id t.endTime p
  rw [if_pos rfl] at closed
  obtain ⟨free, entry⟩ := State.free_allocate (p := p) pop k t.id t.endTime r
  have gapClosed := a.closeGap_touches p t.id t.endTime
  have allocated := at_.becomes.trans (.allocate (p := p) pop at_.becomes.here k t.endTime r)
  have cues : SameCues (s.gapPlaced p t.id t.endTime) (a.gapPlaced p t.id t.endTime) :=
    (at_.cues.trans (.of_touches (x.allocate_touches p k t.id t.endTime r))).gapPlaced gap t.id t.endTime
  have becomes := allocated.trans (TakeBecomes.closeGap allocated.here p t.endTime)
  rw [cues.cuesOf] at becomes
  refine ⟨⟨?_, ?_, (gapClosed.get .free rfl).trans free, ?_, ?_, ?_⟩, becomes, cues.trans (.closeGap a p t.id t.endTime), ?_⟩
  · calc _ = (a.intake p).buf k := (congrArg (Intake.buf · k) closed).trans (Intake.buf_congr rfl rfl k)
      _ = _ := (congrArg (Intake.buf · k) intake).trans (State.buf_setBuf _ _ _ _)
  · calc _ = (a.intake p).buf (!k) := (congrArg (Intake.buf · (!k)) closed).trans (Intake.buf_congr rfl rfl _)
      _ = _ := (congrArg (Intake.buf · (!k)) intake).trans (State.buf_setBuf_other _ _ _ _)
  · rw [gapClosed.get .directory rfl]; exact entry
  · exact congrArg Intake.gap closed
  · rw [← gap, ← starving]; exact congrArg Intake.starving closed
  · exact (congrArg Intake.run closed).trans noted

/-- A frame is lost: its gap is noted, and STORE_EMPTY told once (R35). -/
structure FrameLost (p : PortNo) (t : Take) (s x v : State) (starving : Bool) : Prop where
  buf : ∀ k, (v.intake p).buf k = (x.intake p).buf k
  free : v.free = s.free
  gap : (v.intake p).gap = some ((s.intake p).gap.getD t.endTime)
  starves : (v.intake p).starving = ((s.intake p).starving || starving)
  out : v.out = (s.goodFrame p).out ++ (if starving && !(s.intake p).starving then
    (s.goodFrame p).deskNotices (.storeEmpty t.id ((s.intake p).gap.getD t.endTime)) ++
      (s.goodFrame p).noticeTo p (.storeEmpty t.id ((s.intake p).gap.getD t.endTime)) else [])

theorem State.intake_loseFrame (s : State) (p : PortNo) (n time : Nat) (starving : Bool) :
    (s.loseFrame p n time starving).intake p = { s.intake p with
      gap := some ((s.intake p).gap.getD time), starving := (s.intake p).starving || starving } := by
  unfold State.loseFrame
  dsimp only
  split
  · rw [State.intake_notify, (State.notifyDesks_touches _ _).get .intake rfl p, State.intake_setIntake, if_pos rfl]
  · rw [State.intake_setIntake, if_pos rfl]

theorem State.out_loseFrame (s : State) (p : PortNo) (n time : Nat) (starving : Bool) :
    (s.loseFrame p n time starving).out = s.out ++ (if starving && !(s.intake p).starving then
      s.deskNotices (.storeEmpty n ((s.intake p).gap.getD time)) ++
        s.noticeTo p (.storeEmpty n ((s.intake p).gap.getD time)) else []) := by
  have told (i : State) (m : Notice) : ((i.notifyDesks m).notify p m).out =
      i.out ++ (i.deskNotices m ++ i.noticeTo p m) := by
    rw [State.notify_eq, State.noticeTo_congr (s := i) ((State.notifyDesks_touches i m).link rfl) p m,
      State.notifyDesks_eq]
    exact List.append_assoc _ _ _
  unfold State.loseFrame
  dsimp only
  split
  · rw [told, State.deskNotices_congr (s := s) fun q => State.link_setIntake s p q _,
      State.noticeTo_congr (s := s) fun q => State.link_setIntake s p q _]
    rfl
  · exact (List.append_nil _).symm

theorem State.lost (found : s.take? t.id = some t) (at_ : FrameAt p t run s x) (starving : Bool) :
    FrameLost p t s x (x.loseFrame p t.id t.endTime starving) starving ∧
      RecordTaken p t run t.chain s s (x.loseFrame p t.id t.endTime starving) := by
  have lost := x.loseFrame_touches p t.id t.endTime starving
  have intake := x.intake_loseFrame p t.id t.endTime starving
  refine ⟨⟨fun k => ?_, (lost.get .free rfl).trans at_.free, ?_, ?_, ?_⟩, ?_, at_.cues.trans (.of_touches lost), ?_⟩
  · rw [intake]; exact Intake.buf_congr rfl rfl k
  · rw [intake, ← at_.gap]
  · rw [intake, ← at_.starving]
  · rw [State.out_loseFrame, at_.gap, at_.starving, at_.out, State.deskNotices_congr at_.link,
      State.noticeTo_congr at_.link]
  · rw [State.cuesOf_of_take? found]; exact at_.becomes.then_touches lost
  · rw [intake]; exact at_.run

/-- A record that needs a block, by the buffer and the free list it finds (R33, R35). -/
theorem State.obtainOrLose_leaves (found : s.take? t.id = some t) (at_ : FrameAt p t run s x) (r : Rec) :
    (∀ k b rest, x.emptyBuf p = some k → s.free.pop = some (b, rest) →
      BlockObtained p t r s x (x.obtainOrLose p t r) k b rest ∧
        RecordTaken p t run (t.chain ++ [(b, t.endTime)]) (s.gapPlaced p t.id t.endTime) s (x.obtainOrLose p t r)) ∧
    (x.emptyBuf p = none → FrameLost p t s x (x.obtainOrLose p t r) false ∧
      RecordTaken p t run t.chain s s (x.obtainOrLose p t r)) ∧
    ((x.emptyBuf p).isSome = true → s.free.pop = none → FrameLost p t s x (x.obtainOrLose p t r) true ∧
      RecordTaken p t run t.chain s s (x.obtainOrLose p t r)) := by
  refine ⟨fun k b rest empty pop => ?_, fun full => ?_, fun some_empty pop => ?_⟩
  · have step : x.obtainOrLose p t r = (x.allocate p k t.id t.endTime r).closeGap p t.id t.endTime := by
      unfold State.obtainOrLose
      rw [empty, at_.free, pop]
    rw [step]
    exact State.obtained at_ pop
  · have step : x.obtainOrLose p t r = x.loseFrame p t.id t.endTime false := by
      unfold State.obtainOrLose
      rw [full]
    rw [step]
    exact State.lost found at_ false
  · obtain ⟨k, empty⟩ := Option.isSome_iff_exists.1 some_empty
    have step : x.obtainOrLose p t r = x.loseFrame p t.id t.endTime true := by
      unfold State.obtainOrLose
      rw [empty, at_.free, pop]
    rw [step]
    exact State.lost found at_ true

theorem State.mem_gapPlaced (found : s.take? n = some t) (p : PortNo) (stop : Nat) :
    ∀ e ∈ t.cues, e ∈ (s.gapPlaced p n stop).cuesOf n := by
  intro e listed
  unfold State.gapPlaced
  split
  · exact (State.cuesOf_of_take? found).symm ▸ listed
  · rw [(TakeBecomes.placeClosing found _ _ _ _).cuesOf]
    exact s.mem_withCueIf _ _ _ _ _ listed

theorem State.obtainOrLose_taken (found : s.take? t.id = some t) (at_ : FrameAt p t run s x) (r : Rec) :
    ∃ chain h, RecordTaken p t run chain h s (x.obtainOrLose p t r) ∧ ∀ e ∈ t.cues, e ∈ h.cuesOf t.id := by
  obtain ⟨obtained, full, empty⟩ := State.obtainOrLose_leaves found at_ r
  have stands : ∀ e ∈ t.cues, e ∈ s.cuesOf t.id := fun e listed => (State.cuesOf_of_take? found).symm ▸ listed
  cases buffer : x.emptyBuf p with
  | none => exact ⟨_, _, (full buffer).2, stands⟩
  | some k =>
    cases pop : s.free.pop with
    | none => exact ⟨_, _, (empty (by rw [buffer]; rfl) pop).2, stands⟩
    | some head => exact ⟨_, _, (obtained k head.1 head.2 buffer pop).2, State.mem_gapPlaced found p t.endTime⟩

/-! ### The record of a frame -/

theorem Buffer.isOpenFor_iff {b : Buffer} :
    b.isOpenFor n = true ↔ ∃ c start recs, b = .assembling c n start recs := by
  cases b with
  | assembling c m start recs => simp [Buffer.isOpenFor, and_comm]
  | empty => simp [Buffer.isOpenFor]
  | writing c m start recs => simp [Buffer.isOpenFor]

theorem State.openBuf_spec {k : Bool} (opened : s.openBuf p n = some k) :
    ∃ b start recs, (s.intake p).buf k = .assembling b n start recs := by
  unfold State.openBuf at opened
  split at opened
  · next first => cases opened; exact Buffer.isOpenFor_iff.1 first
  · split at opened
    · next second => cases opened; exact Buffer.isOpenFor_iff.1 second
    · cases opened

theorem State.emptyBuf_of_other {k : Bool} (busy : (s.intake p).buf k ≠ .empty) :
    s.emptyBuf p = if (s.intake p).buf (!k) = .empty then some (!k) else none := by
  unfold State.emptyBuf
  cases k with
  | false => exact if_neg busy
  | true =>
    have second : ¬ (s.intake p).buf1 = .empty := busy
    rw [if_neg second]
    rfl

/-- The state in which the record of a frame is stored: its run is noted (R34). -/
def State.runNoted (s : State) (p : PortNo) (run : Option Run) : State :=
  (s.goodFrame p).setIntake p { (s.goodFrame p).intake p with run := run }

theorem State.intake_runNoted (s : State) (p : PortNo) (run : Option Run) :
    (s.runNoted p run).intake p = { s.intake p with run := run } := by
  rw [State.runNoted, State.intake_setIntake, if_pos rfl, State.intake_goodFrame]

theorem FrameAt.runNoted (found : s.take? t.id = some t) (p : PortNo) (run : Option Run) :
    FrameAt p t run s (s.runNoted p run) := by
  have intake := s.intake_runNoted p run
  have noted : Touches [.intake] (s.goodFrame p) (s.runNoted p run) := State.setIntake_touches _ _ _
  refine ⟨(TakeBecomes.of_touches found (s.goodFrame_touches p)).then_touches noted,
    (SameCues.goodFrame s p).trans (.of_touches noted), ?_, ?_, ?_, ?_, noted.link rfl, noted.get .out rfl⟩
  · rw [intake]
  · rw [intake]
  · rw [intake]
  · exact (noted.get .free rfl).trans (s.goodFrame_free p)

/-- The full block that a record closes leaves what obtaining the next one reads. -/
theorem FrameAt.closeBlock (at_ : FrameAt p t run s x) {k : Bool} {b m start : Nat} {recs : List Rec}
    (opened : (x.intake p).buf k = .assembling b m start recs) : FrameAt p t run s (x.closeBlock p k) := by
  have closed := x.closeBlock_touches p k
  have intake : (x.closeBlock p k).intake p = (x.setBuf p k (.writing b m start recs)).intake p :=
    State.intake_closeBlock opened p
  rw [State.intake_setBuf, if_pos rfl] at intake
  refine ⟨at_.becomes.then_touches closed, at_.cues.trans (.of_touches closed), ?_, ?_, ?_,
    (closed.get .free rfl).trans at_.free, fun q => (closed.link rfl q).trans (at_.link q),
    (closed.get .out rfl).trans at_.out⟩
  · rw [intake, ← at_.run]; cases k <;> rfl
  · rw [intake, ← at_.gap]; cases k <;> rfl
  · rw [intake, ← at_.starving]; cases k <;> rfl

theorem FrameAt.setBuf (found : s.take? t.id = some t) (at_ : FrameAt p t run s x) (k : Bool) (b : Buffer) :
    RecordTaken p t run t.chain s s (x.setBuf p k b) := by
  have staged := x.setBuf_touches p k b
  refine ⟨?_, at_.cues.trans (.of_touches staged), ?_⟩
  · rw [State.cuesOf_of_take? found]; exact at_.becomes.then_touches staged
  · rw [State.intake_setBuf, if_pos rfl, ← at_.run]; cases k <;> rfl

/-- Where no block of the take is open, its record needs one (R33). -/
theorem State.storeRecord_of_none (shut : s.openBuf p t.id = none) (r : Rec) :
    s.storeRecord p t r = s.obtainOrLose p t r := by
  unfold State.storeRecord
  rw [shut]

/-- A record joins the open block, or closes it (R33). -/
theorem State.storeRecord_of_open {k : Bool} {b start : Nat} {recs : List Rec} (buffer : s.openBuf p t.id = some k)
    (opened : (s.intake p).buf k = .assembling b t.id start recs) (r : Rec) :
    s.storeRecord p t r = match appendRec recs r with
      | some recs' => s.setBuf p k (.assembling b t.id start recs')
      | none => (s.closeBlock p k).obtainOrLose p t r := by
  unfold State.storeRecord
  rw [buffer]
  dsimp only
  rw [opened] <;> rfl

/-! ### What follows the record -/

/-- The cue pool shows what the placing of a cue reads. -/
theorem State.withCueIf_congr (used : v.usedCues = s.usedCues) (arrival : v.cueArrival = s.cueArrival) :
    v.admitsOrdinary = s.admitsOrdinary ∧ v.withCueIf = s.withCueIf := by
  have free : v.cueFree = s.cueFree := by rw [State.cueFree, used]; rfl
  have lowest : v.lowestCue = s.lowestCue := by rw [State.lowestCue, used]; rfl
  refine ⟨by rw [State.admitsOrdinary, free]; rfl, ?_⟩
  funext admitted time kind value origin cues
  rw [State.withCueIf, State.withCueIf, State.withCue, State.withCue, lowest, arrival]

theorem State.usedCues_updTake (s : State) (n : Nat) (f : Take → Take) (cues : ∀ t, (f t).cues = t.cues) :
    (s.updTake n f).usedCues = s.usedCues := by
  unfold State.usedCues
  rw [State.takes_updTake, List.flatMap_map]
  exact congrArg (List.flatMap · s.takes) (funext fun e => by split <;> simp [cues])

/-- The silence run has reached the threshold and tried no AUTO_PAUSE before (R34). -/
def State.pauseReached (s : State) (run : Option Run) : Bool :=
  run.any fun x => !x.attempted && s.pauseThreshold ≤ x.length

/-- The middle of the quiet at which the AUTO_PAUSE stands (R34). -/
def State.pauseMiddle (s : State) (run : Option Run) : Nat :=
  (run.map fun x => (x.start + s.pauseThreshold / 2) / 2 * 2).getD 0

/-- The AUTO_PAUSE attempt, by the run it finds (R34). -/
theorem State.attemptPause_eq (s : State) (p : PortNo) (n : Nat) : s.attemptPause p n =
    if s.pauseReached (s.intake p).run then
      (s.setIntake p { s.intake p with run := (s.intake p).run.map fun x => { x with attempted := true } }).placeIfAdmitted
        n (s.pauseMiddle (s.intake p).run) .autoPause none .auto
    else s := by
  unfold State.attemptPause State.pauseReached State.pauseMiddle
  cases (s.intake p).run with
  | none => rfl
  | some run => rfl

theorem State.intake_attemptPause (s : State) (p : PortNo) (n : Nat) : (s.attemptPause p n).intake p = { s.intake p with
    run := (s.intake p).run.map fun x => { x with attempted := x.attempted || s.pauseReached (s.intake p).run } } := by
  rw [State.attemptPause_eq]
  split
  · next reached =>
    rw [(State.placeIfAdmitted_touches _ _ _ _ _ _).get .intake rfl p, State.intake_setIntake, if_pos rfl, reached]
    simp
  · next unreached => simp [Bool.eq_false_iff.2 unreached]

theorem TakeBecomes.attemptPause (found : s.take? n = some t) (p : PortNo) :
    TakeBecomes n s (s.attemptPause p n) { t with
      cues := s.withCueIf (s.pauseReached (s.intake p).run && s.admitsOrdinary) (s.pauseMiddle (s.intake p).run)
        .autoPause none .auto t.cues } := by
  rw [State.attemptPause_eq]
  split
  · next reached =>
    have noted : Touches [.intake] s (s.setIntake p { s.intake p with
      run := (s.intake p).run.map fun x => { x with attempted := true } }) := State.setIntake_touches _ _ _
    have here := TakeBecomes.of_touches found noted
    obtain ⟨admits, placed⟩ := State.withCueIf_congr (SameCues.of_touches noted).usedCues (SameCues.of_touches noted).arrival
    have done := here.trans (.placeIfAdmitted here.here (s.pauseMiddle (s.intake p).run) .autoPause none .auto)
    rw [admits, placed] at done
    rw [reached, Bool.true_and]
    exact done
  · next unreached =>
    rw [Bool.eq_false_iff.2 unreached, Bool.false_and]
    exact ⟨found, fun _ _ => rfl⟩

/-- A frame of a take once its record is stored, up to its cut test (R32, R34). -/
def State.frameEnded (s : State) (p : PortNo) (t : Take) (r : Rec) : State :=
  (s.updTake t.id fun t => { t with endTime := t.endTime + r.duration }).attemptPause p t.id

theorem RecordTaken.frameEnded {chain : List (Nat × Nat)} {h : State} (taken : RecordTaken p t run chain h s x)
    (threshold : x.pauseThreshold = s.pauseThreshold) (r : Rec) :
    TakeBecomes t.id s (x.frameEnded p t r) { t with
      endTime := t.endTime + r.duration, chain := chain
      cues := h.withCueIf (s.pauseReached run && h.admitsOrdinary) (s.pauseMiddle run) .autoPause none .auto
        (h.cuesOf t.id) } := by
  let y := x.updTake t.id fun t => { t with endTime := t.endTime + r.duration }
  have extended := taken.becomes.trans (.updTake taken.becomes.here fun t => { t with endTime := t.endTime + r.duration })
  have done := extended.trans (.attemptPause extended.here p)
  have used : y.usedCues = h.usedCues := (x.usedCues_updTake t.id (fun t => { t with endTime := t.endTime + r.duration }) fun _ => rfl).trans
    taken.cues.usedCues
  obtain ⟨admits, placed⟩ := State.withCueIf_congr (v := y) used taken.cues.arrival
  have noted : (y.intake p).run = run := taken.run
  have reached : y.pauseReached run = s.pauseReached run := by
    unfold State.pauseReached; rw [show y.pauseThreshold = s.pauseThreshold from threshold]
  have middle : y.pauseMiddle run = s.pauseMiddle run := by
    unfold State.pauseMiddle; rw [show y.pauseThreshold = s.pauseThreshold from threshold]
  rw [show (x.updTake t.id fun t => { t with endTime := t.endTime + r.duration }) = y from rfl, noted, reached, middle,
    admits, placed] at done
  exact done

theorem State.emptyBuf_of_bufs (same : ∀ k, (v.intake p).buf k = (s.intake p).buf k) : v.emptyBuf p = s.emptyBuf p := by
  have first : (v.intake p).buf0 = (s.intake p).buf0 := same false
  have second : (v.intake p).buf1 = (s.intake p).buf1 := same true
  unfold State.emptyBuf
  rw [first, second]

theorem State.buf_runNoted (s : State) (p : PortNo) (run : Option Run) (k : Bool) :
    ((s.runNoted p run).intake p).buf k = (s.intake p).buf k := by
  rw [State.intake_runNoted]
  exact Intake.buf_congr rfl rfl k

theorem State.storeRecord_taken (found : s.take? t.id = some t) (p : PortNo) (run : Option Run) (r : Rec) :
    ∃ chain h, RecordTaken p t run chain h s ((s.runNoted p run).storeRecord p t r) ∧
      ∀ e ∈ t.cues, e ∈ h.cuesOf t.id := by
  have at_ := FrameAt.runNoted found p run
  cases buffer : (s.runNoted p run).openBuf p t.id with
  | none => rw [State.storeRecord_of_none buffer]; exact State.obtainOrLose_taken found at_ r
  | some k =>
    obtain ⟨b, start, recs, opened⟩ := State.openBuf_spec buffer
    rw [State.storeRecord_of_open buffer opened]
    split
    · exact ⟨_, s, at_.setBuf found k _, fun e listed => (State.cuesOf_of_take? found).symm ▸ listed⟩
    · exact State.obtainOrLose_taken found (at_.closeBlock opened) r

theorem nextRun_eq (run : Option Run) (stop : Nat) (r : Rec) : nextRun run stop r = match r with
    | .speech _ => none
    | .silence n => some (match run with
      | none => { start := stop, length := 2 * n, attempted := false }
      | some x => { x with length := x.length + 2 * n }) := by
  cases r with
  | speech c => rfl
  | silence n => cases run <;> rfl

/-- An audio frame below the take limit, step by step. -/
theorem State.frame_run {c : Instr} (frame : AudioFrame p c r) (hears : s.hears p .recorder) (linked : s.linkTake p = some t)
    (recording : t.state = .recording) (within : t.endTime + r.duration ≤ 16777214)
    (noted : nextRun (s.intake p).run t.endTime r = run) :
    exec c s = .next ((((s.runNoted p run).storeRecord p t r).frameEnded p t r).cutTest t.id false) := by
  refine (State.audio_run frame (.inl hears)).trans (congrArg _ ?_)
  unfold State.takeAudio
  rw [State.linkTake_goodFrame, linked]
  refine (if_pos recording).trans ((if_neg (Nat.not_lt.2 within)).trans ?_)
  rw [← noted, State.runNoted, State.intake_goodFrame]
  rfl

/-- What is left to a frame's end leaves what the storing left of buffers, gap and store. -/
theorem State.frameEnd_keeps (y : State) (p : PortNo) (t : Take) (r : Rec) :
    let v := (y.frameEnded p t r).cutTest t.id false
    (∀ k, (v.intake p).buf k = (y.intake p).buf k) ∧ (v.intake p).gap = (y.intake p).gap ∧
      (v.intake p).starving = (y.intake p).starving ∧ v.free = y.free ∧ v.directory = y.directory ∧
      (∃ sent, v.out = y.out ++ sent) ∧
      (v.intake p).run = (y.intake p).run.map fun x =>
        { x with attempted := x.attempted || y.pauseReached (y.intake p).run } := by
  intro v
  have tested := (y.frameEnded p t r).cutTest_touches t.id false
  have ended := (y.updTake t.id fun t => { t with endTime := t.endTime + r.duration }).attemptPause_touches p t.id
  have intake : v.intake p = { y.intake p with run := (y.intake p).run.map fun x =>
      { x with attempted := x.attempted || y.pauseReached (y.intake p).run } } :=
    (tested.get .intake rfl p).trans (State.intake_attemptPause _ p t.id)
  refine ⟨fun k => ?_, ?_, ?_, ?_, ?_, ?_, ?_⟩
  · rw [intake]; exact Intake.buf_congr rfl rfl k
  · rw [intake]
  · rw [intake]
  · exact (tested.get .free rfl).trans (ended.get .free rfl)
  · exact (tested.get .directory rfl).trans (ended.get .directory rfl)
  · obtain ⟨sent, out⟩ := tested.get .grows rfl
    refine ⟨sent, out.trans (congrArg (· ++ sent) ?_)⟩
    exact ended.get .out rfl
  · rw [intake]

theorem State.frameEnded_touches (y : State) (p : PortNo) (t : Take) (r : Rec) :
    Touches gapParts y (y.frameEnded p t r) :=
  .seq (ps := gapParts) (State.updTake_touches' _ _ _ (by intro _; rfl) (by intro _; rfl))
    (State.attemptPause_touches _ _ _)

/-- Settles O31. -/
theorem audioIsStoredOrLost : Obligations.AudioIsStoredOrLost := by
  intro p c r s t frame hears linked recording ids within i run reached middle paused h
  have found := State.take?_of_linkTake ids linked
  have noted : nextRun (s.intake p).run t.endTime r = run := nextRun_eq _ _ _
  let y := (s.runNoted p run).storeRecord p t r
  let w := y.frameEnded p t r
  let v := w.cutTest t.id false
  have threshold : y.pauseThreshold = s.pauseThreshold := by
    rw [(State.storeRecord_touches _ p t r).get .pauseThreshold rfl]
    exact s.goodFrame_pauseThreshold p
  obtain ⟨chain, h', taken, kept⟩ := State.storeRecord_taken found p run r
  have becomes := taken.frameEnded threshold r
  obtain ⟨u, cut, apart⟩ := CutsOnly.cutTest t.id false w _ becomes.here
  have final := becomes.trans cut
  obtain ⟨bufs, gap, starving, free, directory, ⟨sent, out⟩, run'⟩ := y.frameEnd_keeps p t r
  have as_taken {chain : List (Nat × Nat)} {h : State} (taken : RecordTaken p t run chain h s y) :
      u.apartFromCuts t = { t with endTime := t.endTime + r.duration, chain := chain, cues := paused h } := by
    have same := Option.some.inj (becomes.here.symm.trans (taken.frameEnded threshold r).here)
    exact apart.trans same
  refine ⟨v, u, State.frame_run frame hears linked recording within noted, final.here, final.others, ?_, ?_, ?_, ?_, ?_⟩
  · intro e listed
    have cues : u.cues = paused h' := congrArg Take.cues (as_taken taken)
    rw [cues]
    exact h'.mem_withCueIf _ _ _ _ _ (kept e listed)
  · exact .seq (s.goodFrame_touches p) (.seq (ps := .link :: audioParts) (State.setIntake_touches _ p _)
      (.seq (ps := .link :: audioParts) (State.storeRecord_touches _ p t r)
        (.seq (ps := .link :: audioParts) (y.frameEnded_touches p t r) (w.cutTest_touches t.id false))))
  · rw [run', taken.run]
    unfold State.pauseReached
    rw [threshold]
  · refine ⟨w, State.readyToCut_of_touches (ps := .link :: .out :: .intake :: recordParts) ?_,
      becomes.here.trans (congrArg some apart.symm), rfl⟩
    exact .seq (s.goodFrame_touches p) (.seq (ps := .link :: .out :: .intake :: recordParts) (State.setIntake_touches _ p _)
      (.seq (ps := .link :: .out :: .intake :: recordParts) (State.storeRecord_touches _ p t r)
        (y.frameEnded_touches p t r)))
  · intro obtained lost
    have as_obtained {x : State} {k : Bool} {b : Nat} {rest : FreeList} (pop : s.free.pop = some (b, rest))
        (got : BlockObtained p t r s x y k b rest)
        (taken : RecordTaken p t run (t.chain ++ [(b, t.endTime)]) h s y) : obtained k :=
      ⟨b, rest, pop, (bufs k).trans got.buf, free.trans got.free, directory ▸ got.entry, gap.trans got.gap,
        starving.trans got.starving, as_taken taken⟩
    have as_lost {x : State} {starves : Bool} (gone : FrameLost p t s x y starves)
        (taken : RecordTaken p t run t.chain s s y) : lost starves :=
      ⟨free.trans gone.free, gap.trans gone.gap, starving.trans gone.starves, ⟨sent, out.trans (congrArg (· ++ sent) gone.out)⟩,
        as_taken taken⟩
    have at_ := FrameAt.runNoted found p run
    have buf := s.buf_runNoted p run
    refine ⟨fun k b start recs recs' buffer opened joins => ?_, fun k b start recs buffer opened full => ?_, fun shut => ?_⟩
    · have stored : y = (s.runNoted p run).setBuf p k (.assembling b t.id start recs') := by
        refine (State.storeRecord_of_open ((State.openBuf_of_bufs buf t.id).trans buffer) ((buf k).trans opened) r).trans ?_
        rw [joins]
      refine ⟨(bufs k).trans ?_, as_taken ?_⟩
      · rw [stored]; exact State.buf_setBuf _ _ _ _
      · rw [stored]; exact at_.setBuf found k _
    · have stored : y = ((s.runNoted p run).closeBlock p k).obtainOrLose p t r := by
        refine (State.storeRecord_of_open ((State.openBuf_of_bufs buf t.id).trans buffer) ((buf k).trans opened) r).trans ?_
        rw [full]
      let x := (s.runNoted p run).closeBlock p k
      have intake : x.intake p = ((s.runNoted p run).setBuf p k (.writing b t.id start recs)).intake p :=
        State.intake_closeBlock ((buf k).trans opened) p
      have written : (x.intake p).buf k = .writing b t.id start recs := by rw [intake, State.buf_setBuf]
      have other : (x.intake p).buf (!k) = i.buf (!k) := by rw [intake, State.buf_setBuf_other]; exact buf (!k)
      have leaves := State.obtainOrLose_leaves found (at_.closeBlock ((buf k).trans opened)) r
      rw [← stored] at leaves
      obtain ⟨gets, busy, empty⟩ := leaves
      have next := State.emptyBuf_of_other (s := x) (p := p) (k := k) (by rw [written]; exact Buffer.noConfusion)
      rw [other] at next
      refine ⟨(bufs k).trans ?_, fun none pop => ?_, fun full => ?_, fun none pop => ?_⟩
      · by_cases free : i.buf (!k) = .empty
        · rw [if_pos free] at next
          cases pop : s.free.pop with
          | none => exact ((empty (by rw [next]; rfl) pop).1.buf k).trans written
          | some head =>
            have other := (gets (!k) head.1 head.2 next pop).1.other
            rw [Bool.not_not] at other
            exact other.trans written
        · exact ((busy (next.trans (if_neg free))).1.buf k).trans written
      · obtain ⟨⟨b, rest⟩, pop⟩ := Option.isSome_iff_exists.1 pop
        have got := gets (!k) b rest (next.trans (if_pos none)) pop
        exact as_obtained pop got.1 got.2
      · have gone := busy (next.trans (if_neg full))
        exact as_lost gone.1 gone.2
      · have gone := empty (by rw [next, if_pos none]; rfl) pop
        exact as_lost gone.1 gone.2
    · have stored : y = (s.runNoted p run).obtainOrLose p t r :=
        State.storeRecord_of_none ((State.openBuf_of_bufs buf t.id).trans shut) r
      have leaves := State.obtainOrLose_leaves found at_ r
      rw [← stored, State.emptyBuf_of_bufs buf] at leaves
      obtain ⟨gets, full, empty⟩ := leaves
      refine ⟨fun k buffer pop => ?_, fun none => ?_, fun some_empty pop => ?_⟩
      · obtain ⟨⟨b, rest⟩, pop⟩ := Option.isSome_iff_exists.1 pop
        exact as_obtained pop (gets k b rest buffer pop).1 (gets k b rest buffer pop).2
      · exact as_lost (full none).1 (full none).2
      · exact as_lost (empty some_empty pop).1 (empty some_empty pop).2

end

end Sys2Proof.Machine

/-!
PROOFS. Playback (Chapter 7): moves, PLAY and STOP, and the frame that falls due.
-/

namespace Sys2Proof.Machine

set_option Elab.async false

section
variable {s v g : State} {p q : PortNo} {x y : Ctx}

theorem State.plays.isAttached (plays : s.plays p x) : (s.link p).isAttached = true := by
  obtain ⟨hears, -⟩ := plays
  rcases hears with hears | hears <;> exact hears.2.1

theorem State.plays.takes_frames (plays : s.plays p x) : ((s.goodFrame p).link p).takesFrames = true :=
  State.goodFrame_takesFrames plays.isAttached

/-! ### Moves -/

/-- A move that a player accepts, from the state before its good frame (R120). -/
theorem State.plays.movesTo (plays : s.plays p x) (tag : Byte) (code target : Nat) (stack : List Nat) (changed : Bool)
    (items : List Item) :
    s.movesTo ((s.goodFrame p).move { port := p, tag := tag, code := code } { x with cursor := target, stack := stack }
      changed items) p tag code x target stack changed items := by
  have touched := (s.goodFrame p).move_touches { port := p, tag := tag, code := code }
    { x with cursor := target, stack := stack } changed items
  obtain ⟨ctx, others, out⟩ := State.move_does (g := s.goodFrame p) (c := { port := p, tag := tag, code := code })
    { x with cursor := target, stack := stack } (by simpa using plays.isAttached) changed items
  exact ⟨ctx, fun q other => (others q other).trans (s.ctx_goodFrame p q), out,
    .seq (s.goodFrame_touches p) touched, touched.link rfl⟩

/-- Settles O34: each of the four commands is a move. -/
theorem timeMovesReachTheirTarget : Obligations.TimeMovesReachTheirTarget := by
  intro p tag n s x plays m at_ back ahead
  exact ⟨⟨_, State.player_run plays tag 0x22 _, plays.movesTo tag 0x22 back x.stack _ []⟩,
    ⟨_, State.player_run plays tag 0x23 _, plays.movesTo tag 0x23 ahead x.stack _ []⟩,
    ⟨_, State.player_run plays tag 0x24 _, plays.movesTo tag 0x24 (at_ m) x.stack _ []⟩,
    ⟨_, State.player_run plays tag 0x26 _, plays.movesTo tag 0x26 (at_ m) ((x.cursor :: x.stack).take 8) _ []⟩⟩

/-- The cue that SEEK_CUE chooses is one it may choose (R117). -/
theorem Ctx.seekCue_spec {cues : List Cue} {d : Direction} {kinds : Nat} {e : Cue} (chosen : x.seekCue cues d kinds = some e) :
    e ∈ cues ∧ kindIn kinds e.kind = true ∧ (d = .next → x.cursor < e.time ∧ e.time ≤ x.endBound) ∧
      (d = .previous → x.startBound ≤ e.time ∧ e.time < x.cursor) := by
  cases d with
  | next =>
    have meets := List.find?_some chosen
    simp only [Bool.and_eq_true, decide_eq_true_eq] at meets
    exact ⟨List.mem_of_find?_eq_some chosen, meets.1.1, fun _ => ⟨meets.1.2, meets.2⟩, nofun⟩
  | previous =>
    obtain ⟨listed, meets⟩ := List.mem_filter.1 (List.mem_of_getLast? chosen)
    simp only [Bool.and_eq_true, decide_eq_true_eq] at meets
    exact ⟨listed, meets.1.1, nofun, fun _ => ⟨meets.1.2, meets.2⟩⟩

/-- A refusal on a player's port. -/
theorem State.plays.refuse (plays : s.plays p x) (tag : Byte) (code : Nat) :
    (s.goodFrame p).refuse { port := p, tag := tag, code := code } .noSuch = { s.goodFrame p with
      out := (s.goodFrame p).out ++ [(p, .reply tag { code := code, result := .refused .noSuch none, items := [] })] } := by
  rw [State.refuse_eq]
  exact State.reply_sent _ _ plays.takes_frames

/-- Settles O35. -/
theorem cueMovesReachTheirCue : Obligations.CueMovesReachTheirCue := by
  intro p tag direction kinds cue d s x plays named listed g cues refused
  have seek : exec (.seekCue p tag direction kinds) s = .next (match x.seekCue cues d kinds with
      | none => refused 0x25
      | some e => g.move { port := p, tag := tag, code := 0x25 } { x with cursor := e.time } false
          [.cueIndex (some e.index)]) := by
    refine (State.player_run plays tag 0x25 _).trans (congrArg _ ?_)
    have ok : kindSetOk kinds = true := decide_eq_true listed
    simp only [named, ok, if_true, State.cuesOf_goodFrame, plays.refuse] <;> rfl
  have jump : exec (.jumpCue p tag cue) s = .next (match cues.find? (fun e => e.index = cue) with
      | none => refused 0x27
      | some e => g.move { port := p, tag := tag, code := 0x27 } { x.push with cursor := x.clampTo e.time }
          (x.clampTo e.time ≠ e.time) []) := by
    refine (State.player_run plays tag 0x27 _).trans (congrArg _ ?_)
    simp only [State.cuesOf_goodFrame, plays.refuse] <;> rfl
  have backtrack : exec (.backtrack p tag) s = .next (match x.stack with
      | [] => refused 0x28
      | top :: rest => g.move { port := p, tag := tag, code := 0x28 } { x with cursor := top, stack := rest } false []) := by
    refine (State.player_run plays tag 0x28 _).trans (congrArg _ ?_)
    rw [plays.refuse] <;> rfl
  refine ⟨fun e chosen => ?_, fun none => ?_, fun e found => ?_, fun none => ?_, fun top rest held => ?_, fun empty => ?_⟩
  · obtain ⟨mem, kind, next, previous⟩ := Ctx.seekCue_spec chosen
    rw [chosen] at seek
    exact ⟨mem, kind, next, previous, _, seek, plays.movesTo tag 0x25 e.time x.stack false _⟩
  · rw [none] at seek; exact seek
  · rw [found] at jump
    exact ⟨_, jump, plays.movesTo tag 0x27 _ ((x.cursor :: x.stack).take 8) _ []⟩
  · rw [List.find?_eq_none.2 fun e mem => by simpa using none e mem] at jump
    exact jump
  · rw [held] at backtrack
    exact ⟨_, backtrack, plays.movesTo tag 0x28 top rest false []⟩
  · rw [empty] at backtrack; exact backtrack

/-! ### Reads and frames -/

/-- Asking for a read marks it outstanding, and changes nothing else of the context (R121). -/
theorem State.ctx_askReads (s : State) (p q : PortNo) : (s.askReads p).ctx q = if q = p then
    (s.ctx p).map fun c => { c with outstanding := c.outstanding || c.wantsRead } else s.ctx q := by
  unfold State.askReads
  cases found : s.ctx p with
  | none => by_cases here : q = p <;> simp [here, found]
  | some c =>
    by_cases wants : c.wantsRead = true
    · by_cases here : q = p <;> simp [here, wants]
    · by_cases here : q = p <;> simp [here, wants, found]

/-- The mark of a frame-time moves only the context's stretch and silenced marks, and may send one notice (R123). -/
theorem State.markFrame_leaves (ctx : s.ctx p = some x) (time : Nat) :
    ∃ stretch silenced before, (State.markFrame p s time).ctx p = some { x with stretch := stretch, silenced := silenced } ∧
      (State.markFrame p s time).out = s.out ++ before := by
  have here (c : Ctx) : (s.setCtx p (some c)).ctx p = some c := by simp
  unfold State.markFrame
  rw [ctx]
  dsimp only
  split
  · split
    · exact ⟨true, _, [], here _, (List.append_nil _).symm⟩
    · exact ⟨true, _, _, (State.ctx_notify _ _ _ _).trans (here _), State.notify_out _ _ _⟩
  · exact ⟨false, x.silenced, [], here _, (List.append_nil _).symm⟩

/-- The end bound ends the play with PLAY_END; the cursor stays (R122). -/
theorem State.endIfDone_leaves (ctx : s.ctx p = some x) : (∃ y, (s.endIfDone p).ctx p = some y ∧ y.cursor = x.cursor) ∧
    (s.endIfDone p).out = s.out ++ if x.endBound ≤ x.cursor then s.noticeTo p (.playEnd x.take x.cursor) else [] := by
  unfold State.endIfDone
  rw [ctx]
  dsimp only
  split
  · refine ⟨⟨{ x with mode := .stopped, pacing := .onData, readAhead := [] },
      (State.ctx_notify _ _ _ _).trans (by simp), rfl⟩, (State.notify_out _ _ _).trans ?_⟩
    rw [State.noticeTo_congr (s := s) fun q => State.link_setCtx s p q _]
    rfl
  · exact ⟨⟨x, ctx, rfl⟩, (List.append_nil _).symm⟩

/-- The frame that a player sends at its cursor from the result that covers it (R122, R123). -/
def State.playFrame (s : State) (p : PortNo) (x : Ctx) (r : ReadResult) : Frame :=
  match if s.isAbove p x x.cursor then none else speechAt r.recs r.recStart x.cursor with
  | some b => .playSpeech x.take x.cursor b
  | none => .playSilence x.take x.cursor

theorem State.sendPlayFrame_leaves (takes : (s.link p).takesFrames = true) (ctx : s.ctx p = some x) (r : ReadResult) :
    ∃ y before, (s.sendPlayFrame p x r).ctx p = some y ∧ y.cursor = x.cursor + 2 ∧
      (s.sendPlayFrame p x r).out = s.out ++ before ++ (p, s.playFrame p x r) ::
        (if x.endBound ≤ x.cursor + 2 then s.noticeTo p (.playEnd x.take (x.cursor + 2)) else []) := by
  obtain ⟨stretch, silenced, before, marked, out⟩ := State.markFrame_leaves ctx x.cursor
  let m := State.markFrame p s x.cursor
  let z : Ctx := { x with stretch := stretch, silenced := silenced }
  let e := m.emit p (s.playFrame p x r)
  have link : m.link p = s.link p := (State.markFrame_touches p s x.cursor).link rfl p
  have sent : e.out = m.out ++ [(p, s.playFrame p x r)] := by
    rw [State.emit_out, State.sentTo, if_pos (by rw [link]; exact takes)]
  let f := e.updCtx p fun c => { c.advance 2 with mode := .playing, pacing := .due }
  have next : f = e.setCtx p (some { z.advance 2 with mode := .playing, pacing := .due }) := by
    show e.updCtx p _ = _
    rw [State.updCtx, show e.ctx p = some z from (State.ctx_emit _ _ _ _).trans marked]
  have ctx' : f.ctx p = some { z.advance 2 with mode := .playing, pacing := .due } := by rw [next]; simp
  have told (w : Notice) : f.noticeTo p w = s.noticeTo p w := by
    unfold State.noticeTo
    rw [next, State.link_setCtx, State.link_emit, link]
  obtain ⟨⟨y, ended, cursor⟩, end_⟩ := State.endIfDone_leaves ctx'
  rw [told] at end_
  have whole : s.sendPlayFrame p x r = (f.endIfDone p).askReads p := rfl
  refine ⟨{ y with outstanding := y.outstanding || y.wantsRead }, before, ?_, cursor, ?_⟩
  · rw [whole, State.ctx_askReads, if_pos rfl, ended]; rfl
  · rw [whole, ((f.endIfDone p).askReads_touches p).get .out rfl, end_, next]
    calc e.out ++ _ = (s.out ++ before ++ [(p, s.playFrame p x r)]) ++ _ := by rw [sent, out]
      _ = _ := by simp; rfl

theorem Ctx.wantsRead_moving (x : Ctx) (moving : x.mode ≠ .stopped) : (x.outstanding || x.wantsRead) =
    (x.outstanding || (x.readAhead.length < 2 && x.readTime < x.endBound)) := by
  cases asked : x.outstanding <;> simp [Ctx.wantsRead, asked, moving, Config.readAheadDepth]

/-- Settles O37. -/
theorem dueFrameIsSentOrStalls : Obligations.DueFrameIsSentOrStalls := by
  intro p s x running takes ctx kind playing due
  have run : exec (.playFrameDue p) s = .next (match x.covering with
      | some r => s.sendPlayFrame p x r
      | none => ((s.setCtx p (some { x with mode := .stalled })).notify p (.playStall x.take x.cursor)).askReads p) := by
    change execPlayFrameDue p s = _
    rw [execPlayFrameDue, State.running_eq running, ctx]
    simp [playing, due, kind] <;> rfl
  refine ⟨fun r covers => ?_, fun uncovered => ?_⟩
  · rw [covers] at run
    obtain ⟨y, before, ctx', cursor, out⟩ := State.sendPlayFrame_leaves takes ctx r
    refine ⟨_, y, before, _, run, ctx', cursor, ?_, rfl, s.sendPlayFrame_touches p x r⟩
    rw [out]
    have frame : s.playFrame p x r = match speechAt r.recs r.recStart x.cursor with
        | some b => if s.isAbove p x x.cursor then .playSilence x.take x.cursor else .playSpeech x.take x.cursor b
        | none => .playSilence x.take x.cursor := by
      unfold State.playFrame
      by_cases above : s.isAbove p x x.cursor = true <;> cases speechAt r.recs r.recStart x.cursor <;> simp [above]
    rw [frame] <;> rfl
  · rw [uncovered] at run
    let stalled := (s.setCtx p (some { x with mode := .stalled })).notify p (.playStall x.take x.cursor)
    have reset : Touches [.ctx, .arbiter, .out] s (s.setCtx p (some { x with mode := .stalled })) :=
      (State.reCtx_touches ctx { x with mode := .stalled } rfl).mono rfl
    refine ⟨_, run, ?_, ?_, .seq reset (.seq (ps := [.ctx, .arbiter, .out]) (State.notify_touches _ _ _)
      (stalled.askReads_touches p))⟩
    · rw [State.ctx_askReads, if_pos rfl, State.ctx_notify, State.ctx_setCtx, if_pos rfl, Option.map_some,
        Ctx.wantsRead_moving _ (by simp)]
      rfl
    · rw [(stalled.askReads_touches p).get .out rfl, State.notify_out,
        State.noticeTo_congr (s := s) fun q => State.link_setCtx s p q _]
      rfl

/-! ### PLAY and STOP -/

/-- The frame of one port leaves the contexts of the others. -/
theorem State.ctx_sendPlayFrame_other (other : q ≠ p) (s : State) (x : Ctx) (r : ReadResult) :
    (s.sendPlayFrame p x r).ctx q = s.ctx q := by
  have mark (s : State) (time : Nat) : (State.markFrame p s time).ctx q = s.ctx q := by
    unfold State.markFrame
    split
    · rfl
    · split
      · split <;> simp [other]
      · simp [other]
  have upd (s : State) (f : Ctx → Ctx) : (s.updCtx p f).ctx q = s.ctx q := by
    unfold State.updCtx
    split
    · rfl
    · simp [other]
  have done (s : State) : (s.endIfDone p).ctx q = s.ctx q := by
    unfold State.endIfDone
    split
    · rfl
    · split
      · simp [other]
      · rfl
  unfold State.sendPlayFrame
  dsimp only
  rw [State.ctx_askReads, if_neg other, done, upd, State.ctx_emit, mark]

theorem State.ctx_sendIfCovered_other (other : q ≠ p) (s : State) : (s.sendIfCovered p).ctx q = s.ctx q := by
  unfold State.sendIfCovered
  split
  · rfl
  · split
    · split
      · rw [State.ctx_sendPlayFrame_other other]; simp [other]
      · rfl
    · rfl

/-- A context that waits on data sends its frame where the read-ahead covers its cursor (R122). -/
theorem State.sendIfCovered_waiting (ctx : s.ctx p = some x) (playing : x.mode = .playing) (waits : x.pacing = .onData) :
    s.sendIfCovered p = match x.covering with
      | some r => (s.setCtx p (some x)).sendPlayFrame p x r
      | none => s := by
  have same : x.resumed = x := if_neg (by simp [playing])
  unfold State.sendIfCovered
  rw [ctx]
  simp [playing, waits, same] <;> rfl

/-- What the start of a play leaves once its reply is sent (R119, R122). -/
theorem State.started_leaves (takes : (s.link p).takesFrames = true) (ctx : s.ctx p = some x.started) :
    ∃ y sent, ((s.askReads p).sendIfCovered p).ctx p = some y ∧ ((s.askReads p).sendIfCovered p).out = s.out ++ sent ∧
      (x.covering = none → sent = [] ∧ y = { x.started with
        outstanding := x.outstanding || (x.readAhead.length < 2 && x.readTime < x.endBound) }) ∧
      (x.covering.isSome = true → y.cursor = x.cursor + 2 ∧ sent ≠ []) := by
  let z : Ctx := { x.started with outstanding := x.outstanding || (x.readAhead.length < 2 && x.readTime < x.endBound) }
  have asked : (s.askReads p).ctx p = some z := by
    rw [State.ctx_askReads, if_pos rfl, ctx, Option.map_some, Ctx.wantsRead_moving _ (by simp [Ctx.started])]
    rfl
  have out : (s.askReads p).out = s.out := (s.askReads_touches p).get .out rfl
  have link : (s.askReads p).link p = s.link p := (s.askReads_touches p).link rfl p
  have step := State.sendIfCovered_waiting asked rfl rfl
  cases covers : x.covering with
  | none =>
    rw [show z.covering = none from covers] at step
    rw [step]
    exact ⟨z, [], asked, by rw [out, List.append_nil], fun _ => ⟨rfl, rfl⟩, nofun⟩
  | some r =>
    rw [show z.covering = some r from covers] at step
    obtain ⟨y, before, ctx', cursor, sent⟩ := State.sendPlayFrame_leaves (s := (s.askReads p).setCtx p (some z)) (x := z)
      (p := p) (by rw [State.link_setCtx, link]; exact takes) (by simp) r
    rw [step]
    have sent' := sent.trans ((congrArg (· ++ before ++ _) out).trans (List.append_assoc _ _ _))
    exact ⟨y, _, ctx', sent', nofun, fun _ => ⟨cursor, by simp⟩⟩

/-- Settles O36. -/
theorem playStartsAndStopStops : Obligations.PlayStartsAndStopStops := by
  intro p tag s x plays g answer
  have takes := plays.takes_frames
  have ctx : g.ctx p = some x := (s.ctx_goodFrame p p).trans plays.2
  have play : exec (.play p tag) s = .next (
      if x.mode = .stopped then
        if x.cursor < x.endBound then
          ((((g.setCtx p (some x.started)).ok { port := p, tag := tag, code := 0x20 }
            ((g.setCtx p (some x.started)).pedalItems p)).askReads p).sendIfCovered p)
        else (g.ok { port := p, tag := tag, code := 0x20 } (g.pedalItems p)).notify p (.playEnd x.take x.cursor)
      else g.ok { port := p, tag := tag, code := 0x20 } (g.pedalItems p)) := State.player_run plays tag 0x20 _
  have items : g.pedalItems p = [.time x.cursor, .unlisted (.mode x.mode)] := by rw [State.pedalItems, ctx]
  have replied : g.ok { port := p, tag := tag, code := 0x20 } (g.pedalItems p) = { g with out := answer 0x20 x.mode } := by
    rw [items]
    exact State.reply_sent _ _ takes
  refine ⟨fun stopped before => ?_, fun stopped done => ?_, fun moving => ?_, ?_⟩
  · rw [if_pos stopped, if_pos before] at play
    let a := g.setCtx p (some x.started)
    let b := a.ok { port := p, tag := tag, code := 0x20 } (a.pedalItems p)
    have started : a.ctx p = some x.started := by simp [a]
    have link (q : PortNo) : a.link q = g.link q := State.link_setCtx _ _ _ _
    have out : b.out = answer 0x20 .playing := by
      have items : a.pedalItems p = [.time x.cursor, .unlisted (.mode .playing)] := by rw [State.pedalItems, started]; rfl
      refine (State.out_reply_sent (by exact link p ▸ takes) _ _).trans ?_
      rw [items]
      rfl
    obtain ⟨y, sent, ctx', out', uncovered, covered⟩ := State.started_leaves (s := b) (p := p) (x := x)
      (by rw [show b.link p = g.link p from (State.link_reply _ _ _ _ _).trans (link p)]; exact takes) ((State.ctx_reply _ _ _ _ _).trans started)
    refine ⟨_, y, sent, play, ctx', out'.trans (congrArg (· ++ sent) out), uncovered, covered, fun q other => ?_, ?_⟩
    · rw [State.ctx_sendIfCovered_other other, State.ctx_askReads, if_neg other]
      refine (State.ctx_reply _ _ _ _ _).trans ?_
      rw [State.ctx_setCtx, if_neg other, State.ctx_goodFrame]
    · exact .seq (s.goodFrame_touches p) (.seq (ps := .link :: playParts) (State.reCtx_touches ctx x.started rfl)
        (.seq (ps := .link :: playParts) (State.reply_touches a _ _ _) (.seq (ps := .link :: playParts)
          (b.askReads_touches p) (State.sendIfCovered_touches _ p))))
  · rw [if_pos stopped, if_neg (Nat.not_lt.2 done), replied, State.notify_eq, stopped] at play
    exact play
  · rw [if_neg moving, replied] at play
    exact play
  · have stop : exec (.stop p tag) s = .next ((g.stopCtx p).ok { port := p, tag := tag, code := 0x21 }
        ((g.stopCtx p).pedalItems p)) := State.player_run plays tag 0x21 _
    have touched := g.stopCtx_touches p
    have halted : (g.stopCtx p).ctx p = some x.halted := by rw [State.ctx_stopCtx, if_pos rfl, ctx]; rfl
    have items : (g.stopCtx p).pedalItems p = [.time x.cursor, .unlisted (.mode .stopped)] := by
      have cursor : x.halted.cursor = x.cursor := by unfold Ctx.halted; split <;> rfl
      have mode : x.halted.mode = .stopped := by
        unfold Ctx.halted
        split
        · assumption
        · rfl
      rw [State.pedalItems, halted]
      exact congrArg₂ (fun time mode => [Item.time time, .unlisted (.mode mode)]) cursor mode
    have final := (State.ctx_reply (g.stopCtx p) { port := p, tag := tag, code := 0x21 } .ok
      ((g.stopCtx p).pedalItems p) p).trans halted
    refine ⟨_, stop, final, fun q other => ?_, ?_, fun moving => ?_, ?_⟩
    · refine (State.ctx_reply _ _ _ _ _).trans ?_
      rw [State.ctx_stopCtx, if_neg other, State.ctx_goodFrame]
    · refine (State.out_reply_sent (by exact touched.link rfl p ▸ takes) _ _).trans ?_
      rw [items, touched.get .out rfl]
    · refine ((State.reply_touches _ _ _ _).get .arbiter rfl).trans ?_
      unfold State.stopCtx
      simp only [ctx, if_neg moving, State.dropRead, State.updCtx, State.ctx_setCtx, if_true]
      rfl
    · exact .seq (s.goodFrame_touches p) (.seq (ps := [.link, .ctx, .arbiter, .out]) touched (State.reply_touches _ _ _ _))

end

end Sys2Proof.Machine

/-!
PROOFS. Typists (Chapters 5 and 6): ready lists, reservations, offers answered or lapsed, holds made and ended.
-/

namespace Sys2Proof.Machine

set_option Elab.async false

section
variable {s v w g : State} {p q : PortNo} {n : ChunkName} {c d : Chunk} {t u : Take} {x : Ctx} {k : PoolId}
  {tag : Byte} {code : Nat}

/-! ### Ready lists and reservations -/

theorem State.queue_congr (chunks : v.chunks = s.chunks) (discipline : (v.pool k).discipline = (s.pool k).discipline) :
    v.queue k = s.queue k := by
  rw [State.queue, chunks, discipline]; rfl

theorem State.discipline_joinReady (s : State) (p : PortNo) (k j : PoolId) :
    ((s.joinReady p k).pool j).discipline = (s.pool j).discipline := by
  cases k <;> cases j <;> rfl

theorem State.pool_goodFrame (s : State) (p : PortNo) (k : PoolId) : (s.goodFrame p).pool k = s.pool k := by
  rw [State.pool, State.goodFrame_pools]; rfl

/-- The state in which READY has answered, before its pass (R81). -/
def State.readied (g : State) (p : PortNo) (tag : Byte) (k : PoolId) : State :=
  (g.joinReady p k).reply { port := p, tag := tag, code := 0x30 } .ok
    [.pool (some k), .unlisted (.readyPosition ((g.joinReady p k).pool k).ready.length)]

theorem State.readied_touches (g : State) (p : PortNo) (tag : Byte) (k : PoolId) :
    Touches [.pools, .out] g (g.readied p tag k) := .seq (g.joinReady_touches p k) (State.reply_touches _ _ _ _)

theorem State.pools_readied (g : State) (p : PortNo) (tag : Byte) (k j : PoolId) :
    (g.readied p tag k).pool j = (g.joinReady p k).pool j := by
  unfold State.readied
  rw [State.pool, (State.reply_touches _ _ _ _).get .pools rfl]; rfl

theorem State.out_readied (takes : (g.link p).takesFrames = true) (tag : Byte) (k : PoolId) :
    (g.readied p tag k).out = g.out ++ [(p, .reply tag
      { code := 0x30, result := .ok
        items := [.pool (some k), .unlisted (.readyPosition (((g.pool k).ready.filter (· ≠ p)).length + 1))] })] := by
  have joins := g.joinReady_touches p k
  have position : ((g.joinReady p k).pool k).ready.length = ((g.pool k).ready.filter (· ≠ p)).length + 1 := by
    rw [State.ready_joinReady, if_pos rfl, List.length_append]; rfl
  unfold State.readied
  rw [State.out_reply_sent (by rw [joins.link rfl p]; exact takes), position, joins.get .out rfl]

theorem State.queue_readied (g : State) (p : PortNo) (tag : Byte) (k : PoolId) :
    (g.readied p tag k).queue k = g.queue k := by
  refine State.queue_congr ((g.readied_touches p tag k).get .chunks rfl) ?_
  rw [State.pools_readied, State.discipline_joinReady]

/-- The pass that READY lets run: ready lists only shrink, and nothing is sent where nothing waits (R84). -/
theorem State.readied_passed (g : State) (p : PortNo) (tag : Byte) (k : PoolId) :
    let v := (g.readied p tag k).offerPass k
    (∀ j, j ≠ k → (v.pool j).ready.Sublist ((g.pool j).ready.filter (· ≠ p))) ∧
      (v.pool k).ready.Sublist ((g.pool k).ready.filter (· ≠ p) ++ [p]) ∧
      ((∀ c ∈ g.queue k, c.state ≠ .pending) →
        (v.pool k).ready = (g.pool k).ready.filter (· ≠ p) ++ [p] ∧ v = g.readied p tag k) := by
  intro v
  have only := OffersOnly.offerPass (g.readied p tag k) k
  have ready (j : PoolId) : ((g.readied p tag k).pool j).ready =
      if j = k then (g.pool k).ready.filter (· ≠ p) ++ [p] else (g.pool j).ready.filter (· ≠ p) := by
    rw [State.pools_readied, State.ready_joinReady]
  refine ⟨fun j other => ?_, ?_, fun idle => ?_⟩
  · have shorter := only.lists j
    rwa [ready, if_neg other] at shorter
  · have shorter := only.lists k
    rwa [ready, if_pos rfl] at shorter
  · have stands : v = g.readied p tag k := State.offerPass_stands (by rw [State.queue_readied]; exact idle)
    exact ⟨by rw [stands, ready, if_pos rfl], stands⟩

/-- Settles O38. -/
theorem readyJoinsAndUnreadyLeaves : Obligations.ReadyJoinsAndUnreadyLeaves := by
  intro p tag pool k s hears named g
  have takes : (g.link p).takesFrames = true := hears.takes_frames
  refine ⟨fun running free none => ?_, ?_⟩
  · have run : exec (.ready p tag pool) s = .next ((g.readied p tag k).offerPass k) := by
      have go : ¬ g.opState = .setup := by simp [g, running]
      have holding : ¬ g.isHolding p = true := by
        have same : g.isHolding p = s.isHolding p := by simp [State.isHolding, State.heldBy, State.lapsedHoldOf, g]
        simp [same, free]
      have offer : ¬ (g.handoff p).offer.isSome = true := by simp [g, none]
      refine (State.role_run hears tag 0x30 _).trans (congrArg _ ?_)
      rw [named]
      exact (if_neg go).trans ((if_neg holding).trans (if_neg offer))
    have passed := (g.readied p tag k).offerPass_touches k
    obtain ⟨others, own, idle⟩ := g.readied_passed p tag k
    obtain ⟨sent, grows⟩ := passed.get .grows rfl
    have queue : g.queue k = s.queue k := State.queue_congr (s.goodFrame_chunks p) (by rw [State.pool_goodFrame])
    have out := State.out_readied takes tag k
    simp only [g, State.pool_goodFrame] at others own idle out
    refine ⟨_, sent, run, ?_, others, own, fun waits => ?_, ?_⟩
    · rw [grows, out, List.append_assoc]; rfl
    · obtain ⟨ready, stands⟩ := idle (by rw [queue]; exact waits)
      exact ⟨ready, List.append_right_eq_self.1 (grows.symm.trans (congrArg State.out stands))⟩
    · exact .seq (s.goodFrame_touches p) (.seq (ps := .link :: offerParts) (g.readied_touches p tag k) passed)
  · have run : exec (.unready p tag) s = .next ((g.leaveReady p).reply { port := p, tag := tag, code := 0x31 } .ok []) :=
      State.role_run hears tag 0x31 _
    have leaves := g.leaveReady_touches p
    refine ⟨_, run, fun j => ?_, ?_, .seq (s.goodFrame_touches p) (.seq (ps := [.link, .pools, .out]) leaves
      (State.reply_touches _ _ _ _))⟩
    · rw [State.pool, (State.reply_touches _ _ _ _).get .pools rfl, ← State.pool_goodFrame s p j]
      exact g.ready_leaveReady p j
    · refine (State.out_reply_sent (by exact leaves.link rfl p ▸ takes) _ _).trans ?_
      rw [leaves.get .out rfl]

/-- Settles O39. -/
theorem peekReservesTheFirstCleared : Obligations.PeekReservesTheFirstCleared := by
  intro p tag pool k s hears running named g
  have takes : (g.link p).takesFrames = true := hears.takes_frames
  have go : ¬ g.opState = .setup := by simp [g, running]
  have handoff : g.handoff p = s.handoff p := by simp [g]
  have seen : g.peekChunk p k = (s.queue k).find? fun c => c.state = .pending && c.required ≤ (s.link p).clearance := by
    have queue : g.queue k = s.queue k := State.queue_congr (s.goodFrame_chunks p) (by rw [State.pool_goodFrame])
    have clearance : (g.link p).clearance = (s.link p).clearance := by simp [g]
    rw [State.peekChunk, queue, clearance]
  have run : exec (.peek p tag pool) s = .next (match g.peekChunk p k with
      | none => (g.dropReservation p).refuse { port := p, tag := tag, code := 0x32 } .empty
      | some x => (g.setHandoff p { g.handoff p with reservation := some x.name }).ok
          { port := p, tag := tag, code := 0x32 } [.chunk x.summary]) := by
    refine (State.role_run hears tag 0x32 _).trans (congrArg _ ?_)
    rw [named]
    exact if_neg go
  have answered (h : Handoff) (r : Result) (items : List Item) :
      (g.setHandoff p h).reply { port := p, tag := tag, code := 0x32 } r items = { g.setHandoff p h with
        out := g.out ++ [(p, .reply tag { code := 0x32, result := r, items := items })] } :=
    State.reply_sent _ _ (by simpa using takes)
  refine ⟨fun a c b queue waits cleared before => run.trans (congrArg _ ?_), fun none => run.trans (congrArg _ ?_)⟩
  · have first : g.peekChunk p k = some c := by
      rw [seen, queue]
      refine List.find?_eq_some_iff_append.2 ⟨by simp [waits, cleared], a, b, rfl, fun e early => ?_⟩
      by_cases pending : e.state = .pending
      · simp [before e early pending]
      · simp [pending]
    rw [first]
    dsimp only
    rw [handoff]
    exact answered _ _ _
  · have empty : g.peekChunk p k = Option.none := by
      rw [seen, List.find?_eq_none]
      intro e queued
      by_cases pending : e.state = .pending
      · simp [none e queued pending]
      · simp [pending]
    rw [empty]
    dsimp only
    rw [State.refuse_eq, State.dropReservation, handoff]
    exact answered _ _ _

/-! ### Holds made -/

theorem State.summaryItems_of_chunk? (found : s.chunk? n = some c) : s.summaryItems n = [.chunk c.summary] := by
  rw [State.summaryItems, found]

theorem State.ctx_loadTypist (found : s.chunk? n = some c) (cursor : Option Nat) (q : PortNo) :
    (s.loadTypist p n cursor).ctx q = if q = p then some
      { take := n.take, kind := .typist, startBound := c.playStart, endBound := c.ownEnd
        cursor := clamp c.playStart c.ownEnd (even (cursor.getD c.playStart)), mode := .stopped, pacing := .onData
        stack := [], readAhead := [], outstanding := false, stretch := false, damagedCount := 0, silenced := false
        closedAtBegin := false } else s.ctx q := by
  unfold State.loadTypist
  rw [found]
  exact State.ctx_createCtx _ _ _ _ _ _ _ _ _ _

theorem TakeBecomes.loadTypist (found : s.chunk? n = some c) (take : s.take? n.take = some t) (p : PortNo)
    (cursor : Option Nat) : TakeBecomes n.take s (s.loadTypist p n cursor) { t with readers := t.readers + 1 } := by
  unfold State.loadTypist
  rw [found]
  exact .createCtx take _ _ _ _ _ _ _

theorem clamp_self {lo hi m : Nat} (low : lo ≤ m) (high : m ≤ hi) : clamp lo hi m = m := by
  rw [clamp_eq lo hi m (by omega)]; omega

/-- The chunk as ACCEPT and CLAIM make it held (R98). -/
def Chunk.heldOn (c : Chunk) (station : Option Nat) (p : PortNo) (clock : Nat) : Chunk :=
  { c with state := .held, holderStation := station, holderPort := some p, heldSince := some clock, offeree := none
           noOffer := false, lastDecliner := none }

/-- A chunk whose name no port has reserved. -/
def State.unreserved (s : State) (n : ChunkName) : Prop := ∀ r, (s.handoff r).reservation ≠ some n

theorem State.unreserved_updChunk (s : State) (n : ChunkName) (f : Chunk → Chunk) : (s.updChunk n f).unreserved n := by
  intro r
  rw [State.handoff_updChunk]
  split
  · simp
  · assumption

theorem State.makeHold_leaves (found : s.chunk? n = some c) (halves : c.playStart % 2 = 0) (bounds : c.playStart ≤ c.ownEnd)
    (p : PortNo) :
    let v := s.makeHold p n
    v.chunk? n = some (c.heldOn (s.link p).station p s.clock) ∧ ¬ v.hasPending n ∧ (∀ k, p ∉ (v.pool k).ready) ∧
      (v.handoff p).offer = (s.handoff p).offer ∧ v.unreserved n ∧
      v.ctx p = some
        { take := n.take, kind := .typist, startBound := c.playStart, endBound := c.ownEnd
          cursor := c.playStart, mode := .stopped, pacing := .onData, stack := [], readAhead := []
          outstanding := false, stretch := false, damagedCount := 0, silenced := false
          closedAtBegin := false } ∧
      ∀ t, s.take? n.take = some t → v.take? n.take = some { t with readers := t.readers + 1 } := by
  intro v
  let a := (s.leaveReady p).updChunk n fun c => c.heldOn (s.link p).station p s.clock
  have whole : v = a.loadTypist p n none := rfl
  have loaded := a.loadTypist_touches p n none
  have held : a.chunk? n = some (c.heldOn (s.link p).station p s.clock) :=
    State.chunk?_updChunk_self found (fun c => c.heldOn (s.link p).station p s.clock) fun _ => rfl
  have off : ¬ a.hasPending n := State.not_hasPending_updChunk _ _ _ fun _ => nofun
  have free : a.unreserved n := State.unreserved_updChunk _ _ _
  refine ⟨(loaded.chunk? rfl n).trans held, ?_, fun k => ?_, ?_, fun r => ?_, ?_, fun t take => ?_⟩
  · rw [State.hasPending, whole, loaded.get .chunks rfl]; exact off
  · rw [whole, State.pool, loaded.get .pools rfl]
    have left := s.ready_leaveReady p k
    intro listed
    have among : p ∈ ((s.leaveReady p).pool k).ready := listed
    rw [left] at among
    simp at among
  · rw [whole, loaded.get .handoff rfl, State.handoff_updChunk]
    split <;> rfl
  · rw [whole, loaded.get .handoff rfl]; exact free r
  · rw [whole, State.ctx_loadTypist held, if_pos rfl]
    have cursor : clamp (c.heldOn (s.link p).station p s.clock).playStart (c.heldOn (s.link p).station p s.clock).ownEnd
        (even (Option.none.getD (c.heldOn (s.link p).station p s.clock).playStart)) = c.playStart := by
      dsimp only [Chunk.heldOn, Option.getD_none]
      rw [even_of_mod halves]; exact clamp_self (le_refl _) bounds
    rw [cursor]
    rfl
  · exact (TakeBecomes.loadTypist held take p none).here

/-- What an ended offer makes of a chunk that may be its own (R89). -/
theorem State.chunk?_endOffer (found : s.chunk? n = some c) (p : PortNo) (noticed : Bool) :
    ∃ d, (s.endOffer p Chunk.unoffer noticed).chunk? n = some d ∧ (d = c ∨ d = c.unoffer) := by
  have chunks := (s.endOffer_reads p Chunk.unoffer noticed).1
  cases offer : (s.handoff p).offer with
  | none =>
    rw [offer] at chunks
    exact ⟨c, by rw [State.chunk?, chunks]; exact found, .inl rfl⟩
  | some o =>
    rw [offer] at chunks
    have same : (s.endOffer p Chunk.unoffer noticed).chunk? n = (s.updChunk o.chunk Chunk.unoffer).chunk? n := by
      unfold State.chunk?; rw [chunks]; rfl
    rw [same]
    by_cases here : n = o.chunk
    · subst here
      exact ⟨c.unoffer, State.chunk?_updChunk_self found Chunk.unoffer fun _ => rfl, .inr rfl⟩
    · exact ⟨c, State.chunk?_updChunk_ne found here Chunk.unoffer fun _ => rfl, .inl rfl⟩

theorem State.offer_endOffer (s : State) (p : PortNo) (f : Chunk → Chunk) (noticed : Bool) :
    ((s.endOffer p f noticed).handoff p).offer = none := by
  obtain ⟨-, same | same⟩ := s.endOffer_reads p f noticed <;> rw [same]

/-- What a hold touches until its reply. -/
abbrev holdingParts : List Part := [.ctx, .damage, .takes, .pools, .handoff, .chunks, .out]

/-- A hold made on the port of a command, the pass of a withdrawn offer behind it, and the reply (R85, R96, R98). -/
theorem State.hold_answered {b : State} (takes : (g.link p).takesFrames = true) (ended : Touches offerParts g b)
    (found : b.chunk? n = some d) (same : d = c ∨ d = c.unoffer) (clear : (b.handoff p).offer = none)
    (halves : c.playStart % 2 = 0) (bounds : c.playStart ≤ c.ownEnd) (k : Option PoolId) (tag : Byte) (code : Nat) :
    let held := c.heldOn (g.link p).station p g.clock
    let h := (b.makeHold p n).offerPass? k
    let v := h.reply { port := p, tag := tag, code := code } .ok (h.summaryItems n)
    ∃ sent, v.chunk? n = some held ∧ (∀ k, p ∉ (v.pool k).ready) ∧ (v.handoff p).offer = none ∧
      v.ctx p = some
        { take := n.take, kind := .typist, startBound := c.playStart, endBound := c.ownEnd
          cursor := c.playStart, mode := .stopped, pacing := .onData, stack := [], readAhead := []
          outstanding := false, stretch := false, damagedCount := 0, silenced := false
          closedAtBegin := false } ∧
      (∀ t, g.take? n.take = some t → v.take? n.take = some { t with readers := t.readers + 1 }) ∧
      v.out = g.out ++ sent ++
        [(p, .reply tag { code := code, result := .ok, items := [.chunk held.summary] })] ∧
      v.unreserved n ∧ Touches holdingParts g v := by
  intro held h v
  obtain ⟨holds, off, unlisted, offer, free, ctx, reader⟩ := State.makeHold_leaves found
    (by rcases same with rfl | rfl <;> exact halves) (by rcases same with rfl | rfl <;> exact bounds) p
  have alike : d.heldOn (b.link p).station p b.clock = held := by
    rw [ended.link rfl p, ended.get .clock rfl]
    rcases same with rfl | rfl <;> rfl
  rw [alike] at holds
  have passed := State.offerPassOf_touches (b.makeHold p n) k
  have only := OffersOnly.offerPassOf (b.makeHold p n) k
  have answers : Touches [.out] h v := State.reply_touches _ _ _ _
  have stands : h.chunk? n = some held := only.chunk?_stands holds off
  have touched : Touches holdingParts g h :=
    .seq ended (.seq (ps := holdingParts) (b.makeHold_touches' p n) passed)
  obtain ⟨unready, pass⟩ := (b.makeHold p n).offerPassOf_unready k unlisted
  obtain ⟨sent, grows⟩ := touched.get .grows rfl
  refine ⟨sent, (answers.chunk? rfl n).trans stands, fun j => ?_, ?_, ?_, fun t take => ?_, ?_, fun r => ?_,
    .seq touched answers⟩
  · rw [State.pool, answers.get .pools rfl]; exact unready j
  · rw [answers.get .handoff rfl]
    rcases pass with same | same <;> exact (congrArg Handoff.offer same).trans (offer.trans clear)
  · rw [answers.get .ctx rfl, passed.get .ctx rfl, ctx]
    rcases same with rfl | rfl <;> rfl
  · exact (answers.take? rfl _).trans ((passed.take? rfl _).trans (reader t ((ended.take? rfl _).trans take)))
  · refine (State.out_reply_sent (by rw [touched.link rfl p]; exact takes) _ _).trans ?_
    rw [grows, State.summaryItems_of_chunk? stands]
  · rw [answers.get .handoff rfl]
    exact fun reserved => free r (only.reservations r n reserved)

/-- An answer to the outstanding offer reaches its owner (R85, R86). -/
theorem State.answerOffer_run (hears : s.hears p .typist) (offered : (s.handoff p).offer.map (·.chunk) = some n) (tag : Byte)
    (code : Nat) (f : State → State) :
    s.running (fun s => s.answerOffer { port := p, tag := tag, code := code } n f) = .next (f (s.goodFrame p)) := by
  have same : ((s.goodFrame p).handoff p).offer.map (·.chunk) = some n := by simpa using offered
  unfold State.answerOffer State.asTypist
  rw [State.role_run hears]
  exact congrArg _ (if_pos same)

/-- Settles O40. -/
theorem acceptAndClaimMakeTheHold : Obligations.AcceptAndClaimMakeTheHold := by
  intro p tag s n c i code hears found halves bounds command held
  let g := s.goodFrame p
  have takes : (g.link p).takesFrames = true := hears.takes_frames
  have found' : g.chunk? n = some c := (s.chunk?_goodFrame p n).trans found
  have station : (g.link p).station = (s.link p).station := by simp [g]
  have clock : g.clock = s.clock := s.goodFrame_clock p
  obtain ⟨b, d, k, run, ended, chunk, same, clear⟩ : ∃ b d k, exec i s = .next (((b.makeHold p n).offerPass? k).reply
      { port := p, tag := tag, code := code } .ok (((b.makeHold p n).offerPass? k).summaryItems n)) ∧
      Touches offerParts g b ∧ b.chunk? n = some d ∧ (d = c ∨ d = c.unoffer) ∧ (b.handoff p).offer = none := by
    rcases command with ⟨rfl, rfl, offered⟩ | ⟨rfl, rfl, running, free, reserved⟩
    · have cancels := g.cancelOffer_touches p
      refine ⟨g.cancelOffer p, c, none, ?_, cancels.mono rfl, (cancels.chunk? rfl n).trans found', .inl rfl, ?_⟩
      · exact State.answerOffer_run hears offered tag 0x34 _
      · simp [State.cancelOffer]
    · have drops := g.dropReservation_touches p
      have ends := (g.dropReservation p).endOffer_touches p Chunk.unoffer true
      obtain ⟨d, chunk, same⟩ := State.chunk?_endOffer ((drops.chunk? rfl n).trans found') p true
      refine ⟨(g.dropReservation p).endOffer p Chunk.unoffer true, d, g.offerPool p, ?_, .seq drops ends, chunk, same,
        State.offer_endOffer _ _ _ _⟩
      refine (State.role_run hears tag 0x33 _).trans (congrArg _ ?_)
      have go : ¬ g.opState = .setup := by simp [g, running]
      have holding : ¬ g.isHolding p = true := by
        have same : g.isHolding p = s.isHolding p := by simp [State.isHolding, State.heldBy, State.lapsedHoldOf, g]
        simp [same, free]
      refine (if_neg go).trans ((if_neg holding).trans ?_)
      rw [show ((s.goodFrame p).handoff p).reservation = some n by simpa using reserved]
      rfl
  obtain ⟨sent, holds, unlisted, offer, ctx, reader, out, free, touched⟩ :=
    State.hold_answered takes ended chunk same clear halves bounds k tag code
  rw [station, clock] at holds out
  exact ⟨_, sent, run, holds, unlisted, offer, ctx, fun t take => reader t ((s.take?_goodFrame p _).trans take), out, free,
    .seq (s.goodFrame_touches p) touched⟩

/-! ### Offers ended -/

/-- A chunk that waits before a pass, and a port that is not ready (R84). -/
theorem State.passed_chunk {b : State} (found : b.chunk? n = some c) (waits : c.state = .pending) (alone : c.offeree = none)
    (unready : ∀ j, p ∉ (b.pool j).ready) (k : Option PoolId) :
    ∃ d, (b.offerPass? k).chunk? n = some d ∧ d.unpicked = c ∧ d.offeree ≠ some p ∧
      ((b.offerPass? k).handoff p).offer = (b.handoff p).offer ∧
      ((b.offerPass? k).handoff p).lapsed = (b.handoff p).lapsed := by
  obtain ⟨d, here, picked, -⟩ := (OffersOnly.offerPassOf b k).chunk? found
  obtain ⟨-, handoff⟩ := b.offerPassOf_unready k unready
  refine ⟨d, here, picked.unpicked waits alone, ?_, ?_, ?_⟩
  · rcases picked with rfl | ⟨q, ready, rfl⟩
    · simp [alone]
    · rintro same
      have other : q = p := Option.some.inj same
      subst other
      cases k with
      | none => exact absurd ready List.not_mem_nil
      | some k => exact unready k ready
  · rcases handoff with same | same <;> rw [same]
  · rcases handoff with same | same <;> rw [same]

theorem State.offerPool_eq {o : Offer} (offer : (s.handoff p).offer = some o) (found : s.chunk? o.chunk = some c) :
    s.offerPool p = c.pool := by
  rw [State.offerPool, offer, Option.bind_some, found, Option.bind_some]

/-- Settles O41. -/
theorem declineAndTimeoutEndTheOffer : Obligations.DeclineAndTimeoutEndTheOffer := by
  intro p tag s o c k hears offer found pool unready g
  have handoff : g.handoff p = s.handoff p := by simp [g]
  have found' : g.chunk? o.chunk = some c := (s.chunk?_goodFrame p _).trans found
  refine ⟨?_, ?_⟩
  · let e := c.declined p (s.pool k).reoffer
    let a := (g.cancelOffer p).updChunk o.chunk fun x => x.declined p (s.pool k).reoffer
    let b := a.reply { port := p, tag := tag, code := 0x35 } .ok []
    have run : exec (.decline p tag o.chunk.take o.chunk.ordinal) s = .next (b.offerPass? (some k)) := by
      refine (State.answerOffer_run hears (by rw [offer]; rfl) tag 0x35 _).trans (congrArg _ ?_)
      have from_pool : (s.goodFrame p).offerPool p = some k := (State.offerPool_eq (by rw [← offer, ← handoff]) found').trans pool
      rw [from_pool]
      dsimp only
      rw [State.pool_goodFrame]
      rfl
    have cancels : Touches [.handoff, .chunks] g a := .seq (g.cancelOffer_touches p) (State.updChunk_touches _ _ _)
    have answers : Touches [.out] a b := State.reply_touches _ _ _ _
    have passed := State.offerPassOf_touches b (some k)
    have here : b.chunk? o.chunk = some e :=
      (answers.chunk? rfl _).trans (State.chunk?_updChunk_self (s := g.cancelOffer p)
        (((g.cancelOffer_touches p).chunk? rfl _).trans found') _ fun _ => rfl)
    have lists (j : PoolId) : b.pool j = s.pool j := by
      rw [State.pool, answers.get .pools rfl, cancels.get .pools rfl]; exact State.pool_goodFrame s p j
    obtain ⟨d, found, unpicked, other, offers, lapses⟩ := State.passed_chunk (p := p) here rfl rfl
      (fun j => by rw [lists]; exact unready j) (some k)
    have cancelled : (b.handoff p).offer = none ∧ (b.handoff p).lapsed = (s.handoff p).lapsed := by
      rw [answers.get .handoff rfl, State.handoff_updChunk, State.cancelOffer, State.handoff_setHandoff, if_pos rfl, handoff]
      split <;> exact ⟨rfl, rfl⟩
    obtain ⟨sent, grows⟩ := passed.get .grows rfl
    refine ⟨_, d, sent, run, found, unpicked, other, offers.trans cancelled.1, lapses.trans cancelled.2, ?_, ?_⟩
    · have out : b.out = g.out ++ [(p, .reply tag { code := 0x35, result := .ok, items := [] })] := by
        refine (State.out_reply_sent (by rw [cancels.link rfl p]; exact hears.takes_frames) _ _).trans ?_
        rw [cancels.get .out rfl]
      rw [grows, out, List.append_assoc]; rfl
    · exact .seq (s.goodFrame_touches p) (.seq (ps := .link :: offerParts) cancels
        (.seq (ps := .link :: offerParts) answers passed))
  · let a := (s.setHandoff p { s.handoff p with offer := none, lapsed := some o.chunk }).updChunk o.chunk Chunk.unoffer
    let b := a.notify p (.offerLapsed o.chunk)
    have run : exec (.offerTimerExpiry p) s = .next (b.offerPass? (some k)) := by
      change execOfferTimerExpiry p s = _
      rw [execOfferTimerExpiry, State.running_eq hears.1, offer, ← pool, ← State.offerPool_eq offer found]
    have ends : Touches [.handoff, .chunks] s a := .seq (s.setHandoff_touches p _) (State.updChunk_touches _ _ _)
    have tells : Touches [.out] a b := State.notify_touches _ _ _
    have passed := State.offerPassOf_touches b (some k)
    have here : b.chunk? o.chunk = some c.unoffer :=
      (tells.chunk? rfl _).trans (State.chunk?_updChunk_self (((s.setHandoff_touches p _).chunk? rfl _).trans found)
        Chunk.unoffer fun _ => rfl)
    have lists (j : PoolId) : b.pool j = s.pool j := by
      rw [State.pool, tells.get .pools rfl, ends.get .pools rfl]; rfl
    obtain ⟨d, found, unpicked, -, offers, lapses⟩ := State.passed_chunk (p := p) here rfl rfl
      (fun j => by rw [lists]; exact unready j) (some k)
    have lapsed : (b.handoff p).offer = none ∧ (b.handoff p).lapsed = some o.chunk := by
      rw [tells.get .handoff rfl, State.handoff_updChunk, State.handoff_setHandoff, if_pos rfl]
      split <;> exact ⟨rfl, rfl⟩
    obtain ⟨sent, grows⟩ := passed.get .grows rfl
    refine ⟨_, d, sent, run, found, unpicked, offers.trans lapsed.1, lapses.trans lapsed.2, ?_, ?_⟩
    · rw [grows, State.notify_out, State.noticeTo_congr (ends.link rfl), ends.get .out rfl]
    · exact .seq ends (.seq (ps := offerParts) tells passed)

/-! ### The deferral list is served -/

/-- From `s` to `v` every take changes in its split state alone. -/
def CutsAll (s v : State) : Prop := ∀ n t, s.take? n = some t → ∃ u, v.take? n = some u ∧ u.apartFromCuts t = t

namespace CutsAll

theorem refl (s : State) : CutsAll s s := fun _ t found => ⟨t, found, rfl⟩

theorem trans (first : CutsAll s v) (second : CutsAll v w) : CutsAll s w := fun n t found => by
  obtain ⟨u, found', apart⟩ := first n t found
  obtain ⟨y, found'', apart'⟩ := second n u found'
  exact ⟨y, found'', Take.apartFromCuts_trans apart apart'⟩

theorem of_cutsOnly {m : Nat} (there : s.take? m = some u) (cuts : CutsOnly m s v) : CutsAll s v := fun n t found => by
  obtain ⟨y, becomes, apart⟩ := cuts u there
  by_cases here : n = m
  · subst here
    cases there.symm.trans found
    exact ⟨y, becomes.here, apart⟩
  · exact ⟨t, (becomes.others n here).trans found, rfl⟩

theorem cutTest (s : State) (n : Nat) (service : Bool) : CutsAll s (s.cutTest n service) := by
  cases there : s.take? n with
  | none => unfold State.cutTest; rw [there]; exact refl s
  | some u => exact of_cutsOnly there (.cutTest n service s)

theorem of_takes (same : v.takes = s.takes) : CutsAll s v := fun n t found =>
  ⟨t, by rwa [State.take?, same], rfl⟩

theorem updTake (s : State) (n : Nat) (f : Take → Take) (apart : ∀ t, (f t).apartFromCuts t = t)
    (id : ∀ t, (f t).id = t.id) : CutsAll s (s.updTake n f) := by
  cases there : s.take? n with
  | none =>
    intro m t found
    have other : m ≠ n := fun same => by rw [same, there] at found; cases found
    exact ⟨t, (State.take?_updTake_ne s other f id).trans found, rfl⟩
  | some u => exact of_cutsOnly there (CutsOnly.updTake s n f apart id)

theorem settled (s : State) (n : Nat) (l : List Nat) :
    CutsAll s (State.updTake { s with deferral := l } n fun t => { t with deferred := false }) :=
  (of_takes (v := { s with deferral := l }) rfl).trans (updTake _ n _ (fun _ => rfl) fun _ => rfl)

theorem serveDeferral (l : List Nat) (s : State) : CutsAll s (State.serveDeferral l s) := by
  induction l generalizing s with
  | nil => exact refl s
  | cons n l ih =>
    unfold State.serveDeferral
    dsimp only
    split
    · have done := (cutTest s n true).trans
        (settled _ n ((s.cutTest n true).deferral.filter fun m => m ≠ n))
      split
      · exact done.trans (ih _)
      · exact done
    · exact cutTest s n true

end CutsAll

/-! ### Holds ended -/

theorem State.heldBy_goodFrame (s : State) (p q : PortNo) : (s.goodFrame p).heldBy q = s.heldBy q := by
  simp [State.heldBy]

/-- The state in which FINISH has answered: its record is logged, the context and the chunk are gone (R100). -/
def State.finished (g : State) (p : PortNo) (tag : Byte) (c : Chunk) (pages : Nat) : State :=
  (((((g.logWrite (g.finishedRec c pages)).removeCtx p).updTake c.name.take fun t => { t with
    chunksFinished := t.chunksFinished + 1 })).freeChunk c.name).reply { port := p, tag := tag, code := 0x36 } .ok []

/-- What FINISH touches before its reply. -/
abbrev finishedParts : List Part := [.ctx, .takes, .arbiter, .log, .overrun, .chunks, .out]

theorem State.finished_leaves (takes : (g.link p).takesFrames = true) (ctx : g.ctx p = some x) (mine : x.take = c.name.take)
    (found : g.take? c.name.take = some t) (tag : Byte) (pages : Nat) :
    let w := g.finished p tag c pages
    w.ctx p = none ∧ w.log = g.logged (g.finishedRec c pages) ∧ w.overrun = (g.overrun || 64 ≤ g.log.length) ∧
      w.chunks = g.chunks.filter (fun e => e.name ≠ c.name) ∧
      TakeBecomes c.name.take g w { t with chunksFinished := t.chunksFinished + 1, readers := t.readers - 1 } ∧
      (∃ before, w.out = g.out ++ before ++ [(p, .reply tag { code := 0x36, result := .ok, items := [] })]) ∧
      Touches finishedParts g w := by
  intro w
  let a := g.logWrite (g.finishedRec c pages)
  let b := a.removeCtx p
  let d := b.updTake c.name.take fun t => { t with chunksFinished := t.chunksFinished + 1 }
  let e := d.freeChunk c.name
  have logs : Touches [.log, .overrun, .out] g a := State.logWrite_touches _ _
  have removes := a.removeCtx_touches p
  have counts : Touches [.takes] b d := State.flag_touches _ _ _
  have frees : Touches [.chunks] d e := State.freeChunk_touches _ _
  have answers : Touches [.out] e w := State.reply_touches _ _ _ _
  have after : Touches [.takes, .chunks, .out] b w :=
    .seq counts (.seq (ps := [.takes, .chunks, .out]) frees answers)
  have to_reply : Touches finishedParts g e :=
    .seq logs (.seq (ps := finishedParts) removes (.seq (ps := finishedParts) counts frees))
  have removed := TakeBecomes.removeCtx (s := a) (p := p) (x := x) ((logs.get .ctx rfl p).trans ctx)
    (by rw [mine]; exact (logs.take? rfl _).trans found)
  rw [mine] at removed
  obtain ⟨before, grows⟩ := to_reply.get .grows rfl
  refine ⟨?_, ?_, ?_, ?_, ?_, ⟨before, ?_⟩, .seq to_reply answers⟩
  · rw [after.get .ctx rfl p, State.ctx_removeCtx, if_pos rfl]
  · rw [after.get .log rfl, removes.get .log rfl, State.log_logWrite]
  · rw [after.get .overrun rfl, removes.get .overrun rfl, State.overrun_logWrite]
  · rw [answers.get .chunks rfl, State.chunks_freeChunk, counts.get .chunks rfl, removes.get .chunks rfl,
      logs.get .chunks rfl]
  · exact ((((TakeBecomes.of_touches found logs).trans removed).trans (.updTake removed.here fun t => { t with
      chunksFinished := t.chunksFinished + 1 })).then_touches frees).then_touches answers
  · exact (State.out_reply_sent (by rw [to_reply.link rfl p]; exact takes) _ _).trans (congrArg (· ++ _) grows)

/-- What FINISH touches with its service of the deferral list. -/
abbrev settledParts : List Part :=
  [.ctx, .log, .overrun, .arbiter, .takes, .arrivalSeq, .deferral, .pools, .handoff, .chunks, .out]

/-- FINISH (R100). -/
theorem State.finish_settled (hears : s.hears p .typist) (held : s.heldBy p = some c) (ctx : s.ctx p = some x)
    (mine : x.take = c.name.take) (found : s.take? c.name.take = some t) (tag : Byte) (pages : Nat) :
    ∃ v u before after, exec (.finish p tag pages) s = .next v ∧ v.ctx p = none ∧
      v.log = s.logged (s.finishedRec c pages) ∧ v.overrun = (s.overrun || 64 ≤ s.log.length) ∧
      v.take? c.name.take = some u ∧ u.chunksFinished = t.chunksFinished + 1 ∧ u.readers = t.readers - 1 ∧
      (s.deferral = [] → v.chunks = s.chunks.filter (fun e => e.name ≠ c.name) ∧ after = []) ∧
      (∃ w, v = State.serveDeferral s.deferral w ∧ w.chunks = s.chunks.filter (fun e => e.name ≠ c.name) ∧
        w.deferral = s.deferral ∧ w.arrivalSeq = s.arrivalSeq ∧ w.clock = s.clock ∧ w.pools = s.pools ∧
        w.take? c.name.take = some { t with chunksFinished := t.chunksFinished + 1, readers := t.readers - 1 } ∧
        ∀ n, n ≠ c.name.take → w.take? n = s.take? n) ∧
      v.out = (s.goodFrame p).out ++ before ++ (p, .reply tag { code := 0x36, result := .ok, items := [] }) :: after ∧
      Touches (.link :: settledParts) s v := by
  let g := s.goodFrame p
  let w := g.finished p tag c pages
  have good := s.goodFrame_touches p
  obtain ⟨gone, log, overrun, chunks, becomes, ⟨before, out⟩, touched⟩ :=
    State.finished_leaves (g := g) (c := c) hears.takes_frames ((s.ctx_goodFrame p p).trans ctx) mine
      ((s.take?_goodFrame p _).trans found) tag pages
  have all : Touches (.link :: finishedParts) s w := .seq good touched
  have deferral : w.deferral = s.deferral := all.get .deferral rfl
  have run : exec (.finish p tag pages) s = .next (State.serveDeferral s.deferral w) := by
    refine (State.role_run hears tag 0x36 _).trans (congrArg _ ?_)
    rw [State.heldBy_goodFrame, held, ← deferral]
    rfl
  have served := State.serveDeferral_touches s.deferral w
  obtain ⟨u, here, apart⟩ := CutsAll.serveDeferral s.deferral w _ _ becomes.here
  obtain ⟨after, grows⟩ := served.get .grows rfl
  have logged : g.logged (g.finishedRec c pages) = s.logged (s.finishedRec c pages) := by
    simp [State.logged, State.finishedRec, g]
  have kept : g.chunks = s.chunks := s.goodFrame_chunks p
  refine ⟨_, u, before, after, run, (served.get .ctx rfl p).trans gone, ?_, ?_, here,
    congrArg Take.chunksFinished apart, congrArg Take.readers apart, fun none => ?_,
    ⟨w, rfl, chunks.trans (by rw [kept]), deferral, all.get .arrivalSeq rfl, all.get .clock rfl, all.get .pools rfl,
      becomes.here, fun n other => (becomes.others n other).trans (s.take?_goodFrame p n)⟩, ?_, ?_⟩
  · rw [served.get .log rfl, log, logged]
  · rw [served.get .overrun rfl, overrun]; simp [g]
  · rw [none] at grows ⊢
    exact ⟨chunks.trans (by rw [kept]), List.append_right_eq_self.1 grows.symm⟩
  · rw [grows, out]; simp [g]
  · have after : Touches settledParts g (State.serveDeferral s.deferral w) := .seq touched served
    exact .seq good after

/-- What YIELD touches behind its good frame. -/
abbrev yieldedParts : List Part := [.ctx, .takes, .arbiter, .pools, .handoff, .chunks, .out]

/-- Settles O42. -/
theorem finishAndYieldEndTheHold : Obligations.FinishAndYieldEndTheHold := by
  intro p tag pages s c x t hears held found ctx mine take alone g logged
  have takes : (g.link p).takesFrames = true := hears.takes_frames
  have good := s.goodFrame_touches p
  have yields (v : State) (step : (if c.recallPending then ((g.removeCtx p).parkChunk c).ok
      { port := p, tag := tag, code := 0x37 } [] else (((g.removeCtx p).updChunk c.name Chunk.unhold).ok
        { port := p, tag := tag, code := 0x37 } []).offerPass? c.pool) = v) : exec (.yield p tag) s = .next v := by
    refine (State.role_run hears tag 0x37 _).trans (congrArg _ ?_)
    rw [State.heldBy_goodFrame, held]
    exact step
  have removes := g.removeCtx_touches p
  have found' : (g.removeCtx p).chunk? c.name = some c := (removes.chunk? rfl _).trans ((s.chunk?_goodFrame p _).trans found)
  have gone : (g.removeCtx p).ctx p = none := by rw [State.ctx_removeCtx, if_pos rfl]
  refine ⟨State.finish_settled hears held ctx mine take tag pages, fun kept => ?_, fun recalled => ?_⟩
  · let a := (g.removeCtx p).updChunk c.name Chunk.unhold
    let b := a.reply { port := p, tag := tag, code := 0x37 } .ok []
    have returns : Touches [.handoff, .chunks] (g.removeCtx p) a := State.updChunk_touches _ _ _
    have answers : Touches [.out] a b := State.reply_touches _ _ _ _
    have passed := State.offerPassOf_touches b c.pool
    have here : b.chunk? c.name = some c.unhold :=
      (answers.chunk? rfl _).trans (State.chunk?_updChunk_self found' Chunk.unhold fun _ => rfl)
    obtain ⟨d, found, picked, -⟩ := (OffersOnly.offerPassOf b c.pool).chunk? here
    have removed := TakeBecomes.removeCtx (s := g) (p := p) ((s.ctx_goodFrame p p).trans ctx)
      (by rw [mine]; exact (s.take?_goodFrame p _).trans take)
    rw [mine] at removed
    obtain ⟨sent, grows⟩ := passed.get .grows rfl
    have out : b.out = g.out ++ [(p, .reply tag { code := 0x37, result := .ok, items := [] })] := by
      refine (State.out_reply_sent (by rw [returns.link rfl p, removes.link rfl p]; exact takes) _ _).trans ?_
      rw [returns.get .out rfl, removes.get .out rfl]
    refine ⟨b.offerPass? c.pool, d, sent, yields _ (if_neg (by simp [kept])), ?_, found, ?_, ?_, ?_, ?_⟩
    · rw [passed.get .ctx rfl, answers.get .ctx rfl, returns.get .ctx rfl, gone]
    · exact (picked.unpicked rfl alone).trans (by simp [Chunk.unpicked, Chunk.unhold])
    · exact (((removed.then_touches returns).then_touches answers).then_touches passed).here
    · rw [grows, out, List.append_assoc]; rfl
    · have touched : Touches yieldedParts g (b.offerPass? c.pool) :=
        .seq removes (.seq (ps := yieldedParts) returns (.seq (ps := yieldedParts) answers passed))
      exact .seq good touched
  · let a := (g.removeCtx p).parkChunk c
    have parks : Touches [.handoff, .chunks, .log, .overrun, .out] (g.removeCtx p) a :=
      .seq (State.updChunk_touches _ _ _) (State.logWrite_touches _ _)
    have answers : Touches [.out] a (a.reply { port := p, tag := tag, code := 0x37 } .ok []) := State.reply_touches _ _ _ _
    have logs := State.logWrite_touches ((g.removeCtx p).updChunk c.name Chunk.park) ((g.removeCtx p).recalledRec c)
    have parked : a.chunk? c.name = some c.park :=
      (logs.chunk? rfl _).trans (State.chunk?_updChunk_self found' Chunk.park fun _ => rfl)
    have to_reply : Touches (.log :: .overrun :: yieldedParts) g a := .seq removes parks
    have touched : Touches (.log :: .overrun :: yieldedParts) g (a.reply { port := p, tag := tag, code := 0x37 } .ok []) :=
      .seq to_reply answers
    obtain ⟨sent, grows⟩ := to_reply.get .grows rfl
    refine ⟨_, sent, yields _ (if_pos recalled), ?_, (answers.chunk? rfl _).trans parked, ?_, ?_, ?_⟩
    · refine (answers.get .ctx rfl p).trans ?_
      rw [parks.get .ctx rfl, gone]
    · refine (answers.get .log rfl).trans ((State.log_logWrite _ _).trans ?_)
      have unlogged : ((g.removeCtx p).updChunk c.name Chunk.park).log = s.log :=
        ((State.updChunk_touches _ _ _).get .log rfl).trans ((removes.get .log rfl).trans (s.goodFrame_log p))
      have clock : (g.removeCtx p).clock = s.clock := (removes.get .clock rfl).trans (s.goodFrame_clock p)
      unfold State.logged State.recalledRec
      rw [unlogged, clock]
    · refine (State.out_reply_sent (by rw [to_reply.link rfl p]; exact takes) _ _).trans ?_
      rw [grows]
    · exact .seq good touched

/-! ### Lapsed holds -/

/-- The chunk as RESUME_HOLD makes it held (R104). -/
def Chunk.resumedOn (c : Chunk) (p : PortNo) : Chunk :=
  { c with state := .held, holderPort := some p, graceTimer := none, savedCursor := none, noOffer := false
           lastDecliner := none }

theorem State.resumeHold_leaves (found : s.chunk? c.name = some c) (alone : c.offeree = none) {cursor : Nat}
    (saved : cursor = c.savedCursor.getD c.playStart) (halves : cursor % 2 = 0) (low : c.playStart ≤ cursor)
    (high : cursor ≤ c.ownEnd) (p : PortNo) :
    (s.resumeHold p c).chunk? c.name = some (c.resumedOn p) ∧
      ((s.resumeHold p c).ctx p).map (fun y => (y.take, y.startBound, y.endBound, y.cursor, y.mode)) =
        some (c.name.take, c.playStart, c.ownEnd, cursor, .stopped) := by
  obtain ⟨d, ended, same⟩ := State.chunk?_endOffer found p true
  have alike : d.resumedOn p = c.resumedOn p := by
    rcases same with rfl | rfl
    · rfl
    · unfold Chunk.resumedOn Chunk.unoffer
      rw [← alone]
  let b := (s.endOffer p Chunk.unoffer true).updChunk c.name fun c => c.resumedOn p
  have here : b.chunk? c.name = some (c.resumedOn p) :=
    alike ▸ State.chunk?_updChunk_self ended (fun c => c.resumedOn p) fun _ => rfl
  have off : ¬ b.hasPending c.name := State.not_hasPending_updChunk _ _ _ fun _ => nofun
  have loads := b.loadTypist_touches p c.name c.savedCursor
  have passed := State.offerPassOf_touches (b.loadTypist p c.name c.savedCursor) (s.offerPool p)
  have only := OffersOnly.offerPassOf (b.loadTypist p c.name c.savedCursor) (s.offerPool p)
  have waits : ¬ (b.loadTypist p c.name c.savedCursor).hasPending c.name := by
    rw [State.hasPending, loads.get .chunks rfl]; exact off
  refine ⟨only.chunk?_stands ((loads.chunk? rfl _).trans here) waits, ?_⟩
  have ctx : (s.resumeHold p c).ctx p = (b.loadTypist p c.name c.savedCursor).ctx p := passed.get .ctx rfl p
  have stands : clamp (c.resumedOn p).playStart (c.resumedOn p).ownEnd
      (even (c.savedCursor.getD (c.resumedOn p).playStart)) = cursor := by
    dsimp only [Chunk.resumedOn]
    rw [← saved, even_of_mod halves]
    exact clamp_self low high
  rw [ctx, State.ctx_loadTypist here, if_pos rfl, stands]
  rfl

/-- Settles O43. -/
theorem lapsedHoldReturnsOrEnds : Obligations.LapsedHoldReturnsOrEnds := by
  intro p tag s c found alone
  refine ⟨?_, fun running lapsing timed => ?_⟩
  · intro cursor hears none lapsed saved halves low high held
    let g := s.goodFrame p
    obtain ⟨holds, ctx⟩ := State.resumeHold_leaves (s := g) ((s.chunk?_goodFrame p _).trans found) alone saved halves low
      high p
    have resumes := g.resumeHold_touches p c
    let v := (g.resumeHold p c).reply { port := p, tag := tag, code := 0x38 } .ok
      ((g.resumeHold p c).summaryItems c.name ++ [.time (c.savedCursor.getD c.playStart)])
    have answers : Touches [.out] (g.resumeHold p c) v := State.reply_touches _ _ _ _
    have run : exec (.resumeHold p tag) s = .next v := by
      refine (State.role_run hears tag 0x38 _).trans (congrArg _ ?_)
      have lapsed' : (s.goodFrame p).lapsedHoldOf p = some c := by
        rw [← lapsed]; simp [State.lapsedHoldOf]
      rw [State.heldBy_goodFrame, none, lapsed']
      rfl
    obtain ⟨sent, grows⟩ := resumes.get .grows rfl
    refine ⟨v, sent, run, (answers.chunk? rfl _).trans holds, (congrArg _ (answers.get .ctx rfl p)).trans ctx, ?_, ?_⟩
    · refine (State.out_reply_sent (by rw [resumes.link rfl p]; exact hears.takes_frames) _ _).trans ?_
      rw [grows, State.summaryItems_of_chunk? holds, ← saved]
      rfl
    · exact .seq (s.goodFrame_touches p) (.seq (ps := [.link, .ctx, .damage, .takes] ++ offerParts) resumes answers)
  · let a := s.logWrite (s.lapsedRec c)
    let lapse : Chunk → Chunk := fun c => { c with
      state := .pending, holderStation := none, heldSince := none, savedCursor := none, graceTimer := none
      reissues := min 7 (c.reissues + 1) }
    let b := a.updChunk c.name lapse
    have run : exec (.graceTimerExpiry c.name.take c.name.ordinal) s = .next (b.offerPass? c.pool) := by
      change execGraceTimerExpiry c.name.take c.name.ordinal s = _
      rw [execGraceTimerExpiry, State.running_eq running, found]
      exact congrArg _ (if_pos (by simp [lapsing, timed]))
    have logs : Touches [.log, .overrun, .out] s a := State.logWrite_touches _ _
    have ends : Touches [.handoff, .chunks] a b := State.updChunk_touches _ _ _
    have passed := State.offerPassOf_touches b c.pool
    have here : b.chunk? c.name = some (lapse c) :=
      State.chunk?_updChunk_self ((logs.chunk? rfl _).trans found) lapse fun _ => rfl
    obtain ⟨d, found', picked, -⟩ := (OffersOnly.offerPassOf b c.pool).chunk? here
    refine ⟨_, d, run, found', (picked.unpicked rfl alone).trans (by simp [Chunk.unpicked, lapse]), ?_, ?_⟩
    · exact (passed.get .log rfl).trans ((ends.get .log rfl).trans (State.log_logWrite _ _))
    · exact .seq logs (.seq (ps := [.log, .overrun] ++ offerParts) ends passed)

end

end Sys2Proof.Machine

/-!
PROOFS. Desks: queries, the completion log, the office clock, settings and the operating state (Chapter 10).
-/

namespace Sys2Proof.Machine

set_option Elab.async false

section
variable {s v w g : State} {p q : PortNo} {n : ChunkName} {c d : Chunk} {t u : Take} {x : Ctx} {k : PoolId}
  {tag : Byte} {code : Nat}

/-! ### Queries -/

/-- A desk's command that changes the state to `u` and is answered there. -/
theorem State.desk_answers (hears : s.hears p .desk) {u : State} (link : u.link p = (s.goodFrame p).link p)
    (out : u.out = (s.goodFrame p).out) (tag : Byte) (code : Nat) (r : Result) (items : List Item) :
    u.reply { port := p, tag := tag, code := code } r items = { u with
      out := (s.goodFrame p).out ++ [(p, .reply tag { code := code, result := r, items := items })] } := by
  rw [State.reply_sent _ _ (by rw [link]; exact hears.takes_frames), out]

/-- A desk's query is answered with what it reads. -/
theorem State.query_run (hears : s.hears p .desk) (tag : Byte) (code : Nat) {f : State → State} {items : List Item}
    (answer : f (s.goodFrame p) = (s.goodFrame p).reply { port := p, tag := tag, code := code } .ok items) :
    s.running (fun s => s.asRole { port := p, tag := tag, code := code } .desk f) = .next { s.goodFrame p with
      out := (s.goodFrame p).out ++ [(p, .reply tag { code := code, result := .ok, items := items })] } := by
  rw [State.role_run hears, answer]
  exact congrArg _ (State.desk_answers hears rfl rfl tag code .ok items)

theorem targetOf_of_poolOf {pool : Nat} (named : poolOf pool = some k) : targetOf pool = some (some k) := by
  unfold poolOf at named
  split at named <;> simp_all [targetOf, poolOf]

theorem State.queueWalk_goodFrame (s : State) (p : PortNo) (k : PoolId) : (s.goodFrame p).queueWalk k = s.queueWalk k := by
  have queue : (s.goodFrame p).queue k = s.queue k :=
    State.queue_congr (s.goodFrame_chunks p) (by rw [State.pool_goodFrame])
  rw [State.queueWalk, queue]; rfl

/-- Settles O53. -/
theorem queriesAnswerFromTheState : Obligations.QueriesAnswerFromTheState := by
  intro p tag s hears g answers
  have cues : g.cueFree = s.cueFree := (SameCues.goodFrame s p).cueFree
  have chunks : g.chunks = s.chunks := s.goodFrame_chunks p
  have queue (k : PoolId) : g.queue k = s.queue k := State.queue_congr chunks (by rw [State.pool_goodFrame])
  have pool (k : PoolId) : g.pool k = s.pool k := State.pool_goodFrame s p k
  refine ⟨?_, fun start => ?_, fun take t found => ?_, fun start => ?_, fun pool k start named => ?_,
    fun take t start found => ?_, ?_, fun i h => ?_, ?_, fun number k named => ?_, ?_⟩
  · refine State.query_run hears tag 0x4B (congrArg _ ?_)
    rw [show (s.goodFrame p).cueFree = s.cueFree from cues]
    simp
  · refine State.query_run hears tag 0x4C (congrArg _ ?_)
    simp
  · refine State.query_run hears tag 0x4D ?_
    rw [State.take?_goodFrame, found]
    rfl
  · refine State.query_run hears tag 0x4E ((if_pos rfl).trans (congrArg _ ?_))
    rw [State.parkedWalk, s.goodFrame_chunks p]
    rfl
  · refine State.query_run hears tag 0x4E ?_
    rw [targetOf_of_poolOf named]
    exact congrArg (fun walk => (s.goodFrame p).reply _ .ok (pageItems (walkFrom walk start)))
      (s.queueWalk_goodFrame p k)
  · refine State.query_run hears tag 0x4E ((if_pos ?_).trans (congrArg _ ?_))
    · rw [State.take?_goodFrame, found]; rfl
    · rw [State.chunksOf, s.goodFrame_chunks p]
      rfl
  · refine State.query_run hears tag 0x4F (congrArg _ ?_)
    rw [State.goodFrame_dropTime]
    rfl
  · refine State.query_run hears tag 0x5B ((dif_pos h).trans (congrArg _ ?_))
    simp only [s.goodFrame_filter p]
  · exact State.query_run hears tag 0x5C (congrArg _ (by simp))
  · refine State.query_run hears tag 0x5D ?_
    rw [named]
    dsimp only
    rw [pool, queue]
    rfl
  · exact State.query_run hears tag 0x5E (congrArg _ (by simp))

/-! ### The log and the clock -/

theorem clamp_range {lo hi : Nat} (range : lo ≤ hi) (n : Nat) : clamp lo hi n = min hi (max lo n) := clamp_eq lo hi n range

/-- Settles O50. -/
theorem fetchedRecordsLeaveTheLog : Obligations.FetchedRecordsLeaveTheLog := by
  intro p tag n s hears g m items
  have log : g.log = s.log := s.goodFrame_log p
  have overrun : g.overrun = s.overrun := s.goodFrame_overrun p
  have clamped : clamp 1 8 n = m := clamp_range (by decide) n
  refine (State.role_run hears tag 0x47 _).trans (congrArg _ ?_)
  rw [State.replyBoth_eq, clamped, show (s.goodFrame p).log = s.log from log,
    show (s.goodFrame p).overrun = s.overrun from overrun, List.length_drop]
  refine (State.desk_answers (u := { g with log := s.log.drop m, overrun := false }) hears rfl rfl tag 0x47 _ _).trans ?_
  by_cases same : m = n
  · simp [same, items]
    rfl
  · simp [same, items]
    rfl

/-- Settles O51. -/
theorem officeClockIsSetAndTicks : Obligations.OfficeClockIsSetAndTicks := by
  intro p tag seconds s
  refine ⟨fun hears => ?_, fun running => ?_⟩
  · refine (State.role_run hears tag 0x48 _).trans (congrArg _ ?_)
    exact State.desk_answers (u := { s.goodFrame p with clock := seconds }) hears rfl rfl tag 0x48 .ok _
  · change execOfficeClockTick s = _
    rw [execOfficeClockTick, State.running_eq running]
    have tick : min (s.clock + 1) 4294967295 = if s.clock < 4294967295 then s.clock + 1 else 4294967295 := by
      split <;> omega
    rw [← tick]
    rfl

/-! ### Settings -/

/-- A setting write whose reply carries the value where its range changed it (R157). -/
theorem State.write_run (hears : s.hears p .desk) (setup : s.opState = .setup) (tag : Byte) (code : Nat)
    {f : State → State} {u : State} {changed : Bool} {items : List Item}
    (write : f (s.goodFrame p) = u.replyClamped { port := p, tag := tag, code := code } changed items)
    (link : u.link p = (s.goodFrame p).link p) (out : u.out = (s.goodFrame p).out) :
    s.running (fun s => s.asSetting { port := p, tag := tag, code := code } f) = .next { u with
      out := (s.goodFrame p).out ++ [(p, .reply tag
        { code := code, result := if changed then .clamped else .ok, items := if changed then items else [] })] } := by
  rw [State.setting_run hears setup, write, State.replyClamped_eq]
  exact congrArg _ (State.desk_answers hears link out tag code _ _)

theorem actionOf_eq {target turnaround whole floor : Nat} {a : Option PoolId} {b : Bool} (aims : targetOf target = some a)
    (flag : yesNo whole = some b) : actionOf target turnaround whole floor = some
      { target := a, turnaround := min 2592000 (max 600 turnaround), whole := b, floor := min 3 floor } := by
  unfold actionOf
  rw [aims, flag]
  simp only [clamp_range (show (600 : Nat) ≤ 2592000 by decide), clamp_zero]

theorem State.lowFlag_testLow (s : State) : s.testLow.lowFlag = true ↔
    s.free.count ≤ s.watermark ∨ (s.lowFlag = true ∧ s.free.count ≤ s.watermark + 64) := by
  unfold State.testLow
  dsimp only
  split
  · next falls =>
    obtain ⟨-, low⟩ : s.lowFlag = false ∧ s.free.count ≤ s.watermark := by simpa using falls
    simp [low, State.notifyEach_eq]
  · next stays =>
    split
    · next rises =>
      obtain ⟨-, high⟩ : s.lowFlag = true ∧ s.watermark + 64 < s.free.count := by simpa using rises
      have apart : ¬ s.free.count ≤ s.watermark := by omega
      have beyond : ¬ s.free.count ≤ s.watermark + 64 := by omega
      simp [State.notifyEach_eq, apart, beyond]
    · next holds =>
      cases flag : s.lowFlag with
      | false =>
        have high : ¬ s.free.count ≤ s.watermark := fun low => stays (by simp [flag, low])
        simp [high]
      | true =>
        have low : s.free.count ≤ s.watermark + 64 := by
          by_contra high
          exact holds (by simp [flag]; omega)
        simp [low]

/-- SET_WATERMARK (R57). -/
theorem State.watermark_written (hears : s.hears p .desk) (setup : s.opState = .setup) (tag : Byte) (n : Nat) :
    ∃ v sent, exec (.setWatermark p tag n) s = .next v ∧ v.watermark = min 65535 n ∧
      v.out = (s.goodFrame p).out ++ [(p, .reply tag
        { code := 0x55, result := if decide (min 65535 n ≠ n) then .clamped else .ok
          items := [.count (min 65535 n), .unlisted (.blockCount s.free.count)] })] ++ sent ∧
      (v.lowFlag = true ↔ s.free.count ≤ min 65535 n ∨ (s.lowFlag = true ∧ s.free.count ≤ min 65535 n + 64)) ∧
      Touches [.link, .watermark, .lowFlag, .out] s v := by
  let g := s.goodFrame p
  let u : State := { g with watermark := min 65535 n }
  let w := u.reply { port := p, tag := tag, code := 0x55 } (if decide (min 65535 n ≠ n) then .clamped else .ok)
    [.count (min 65535 n), .unlisted (.blockCount s.free.count)]
  have free : g.free = s.free := s.goodFrame_free p
  have run : exec (.setWatermark p tag n) s = .next w.testLow := by
    refine (State.setting_run hears setup tag 0x55 _).trans (congrArg _ ?_)
    rw [clamp_zero]
    dsimp only
    rw [State.replyBoth_eq]
    exact congrArg (fun f : FreeList => (u.reply { port := p, tag := tag, code := 0x55 }
      (if decide (min 65535 n ≠ n) then .clamped else .ok)
      [.count (min 65535 n), .unlisted (.blockCount f.count)]).testLow) free
  have sets : Touches [.watermark] g u := g.watermark_touches _
  have answers : Touches [.out] u w := State.reply_touches _ _ _ _
  have tests := w.testLow_touches
  obtain ⟨sent, grows⟩ := tests.get .grows rfl
  have out : w.out = _ := congrArg State.out (State.desk_answers (u := u) hears rfl rfl tag 0x55 _ _)
  have count : w.free.count = s.free.count := by rw [answers.get .free rfl]; exact congrArg FreeList.count free
  have mark : w.watermark = min 65535 n := answers.get .watermark rfl
  have flag : w.lowFlag = s.lowFlag := (answers.get .lowFlag rfl).trans (s.goodFrame_lowFlag p)
  refine ⟨_, sent, run, (tests.get .watermark rfl).trans mark, grows.trans (congrArg (· ++ sent) out), ?_, ?_⟩
  · rw [State.lowFlag_testLow, count, mark, flag]
  · exact .seq (s.goodFrame_touches p) (.seq (ps := [.link, .watermark, .lowFlag, .out]) sets
      (.seq (ps := [.link, .watermark, .lowFlag, .out]) answers tests))

/-- Settles O55. -/
theorem settingWritesTakeEffect : Obligations.SettingWritesTakeEffect := by
  intro p tag s hears setup g answer only
  refine ⟨?_, ?_, ?_, ?_, fun n => State.watermark_written hears setup tag n, ?_, ?_, ?_⟩
  · intro n m
    exact State.write_run hears setup tag 0x54 (u := { g with pauseThreshold := m }) (changed := m ≠ n)
      (by rw [clamp_range (by decide)]) rfl rfl
  · intro n m
    exact State.write_run hears setup tag 0x58 (u := { g with offerTimeout := m }) (changed := m ≠ n)
      (by rw [clamp_range (by decide)]) rfl rfl
  · intro n m
    exact State.write_run hears setup tag 0x59 (u := { g with grace := m }) (changed := m ≠ n)
      (by rw [clamp_range (by decide)]) rfl rfl
  · intro n m
    exact State.write_run hears setup tag 0x5A (u := { g with dropTime := m }) (changed := m ≠ n)
      (by rw [clamp_range (by decide)]) rfl rfl
  · intro target turnaround whole floor t w aims flag a changed
    have action := actionOf_eq (turnaround := turnaround) (floor := floor) aims flag
    refine ⟨?_, ?_⟩
    · exact State.write_run hears setup tag 0x53 (u := { g with defaultAction := a }) (changed := changed)
        (by rw [action]) rfl rfl
    · intro index enabled kind first second en k h enables kinds e
      refine State.write_run hears setup tag 0x52 (u := { g with filter := s.filter.set index e h }) (changed := changed)
        ((dif_pos h).trans ?_) rfl rfl
      rw [enables, kinds, action, ← s.goodFrame_filter p]
  · intro pool length window leadIn ratio k named n w v q
    refine (State.setting_run hears setup tag 0x56 _).trans (congrArg _ ?_)
    have length_is : splitLength length = n := by
      unfold splitLength; rw [clamp_range (by decide)]; rfl
    have window_is : splitWindow length window = w := by
      unfold splitWindow; rw [clamp_zero, length_is]; rfl
    have lead_is : splitLeadIn length leadIn = v := by
      unfold splitLeadIn; rw [clamp_zero, length_is]; rfl
    rw [named]
    dsimp only
    rw [length_is, window_is, lead_is, clamp_range (by decide), State.pool_goodFrame, State.replyBoth_eq]
    exact State.desk_answers (u := (s.goodFrame p).setPool k
      { s.pool k with length := n, window := w, leadIn := v, ratio := q }) hears rfl rfl tag 0x56 _ _
  · intro pool discipline reoffer k d r named orders flag
    refine (State.setting_run hears setup tag 0x57 _).trans (congrArg _ ?_)
    rw [named, orders, flag]
    dsimp only
    rw [State.pool_goodFrame]
    exact State.desk_answers (u := (s.goodFrame p).setPool k { s.pool k with discipline := d, reoffer := r }) hears rfl rfl
      tag 0x57 .ok []

/-! ### The operating state -/

/-- The price of a chunk depends on the pools alone (R74). -/
theorem State.repriced_congr (pools : v.pools = s.pools) : v.repriced = s.repriced := by
  funext c
  simp only [State.repriced, State.pool, pools]

/-- One step of the recompute, on one record of the table (R74). -/
def State.repriceStep (s : State) (d c : Chunk) : Chunk :=
  if c.isWaiting && s.repriced c ≠ c then (if d.name = c.name then s.repriced d else d) else d

theorem State.repriceStep_stands (s : State) {l : List Chunk} (same : ∀ e ∈ l, e.name = d.name → s.repriced d = d) :
    l.foldl s.repriceStep d = d := by
  induction l with
  | nil => rfl
  | cons e l ih =>
    have step : s.repriceStep d e = d := by
      unfold State.repriceStep
      split
      · split
        · next here => exact same e List.mem_cons_self here.symm
        · rfl
      · rfl
    rw [List.foldl_cons, step]
    exact ih fun e listed => same e (List.mem_cons_of_mem _ listed)

/-- A record that waits is priced once, and any other stands. -/
theorem State.foldl_repriceStep (s : State) {l : List Chunk} (distinct : ∀ e ∈ l, e.name = d.name → e = d) (listed : d ∈ l) :
    l.foldl s.repriceStep d = if d.isWaiting then s.repriced d else d := by
  induction l with
  | nil => cases listed
  | cons e l ih =>
    have rest : ∀ e ∈ l, e.name = d.name → e = d := fun e later => distinct e (List.mem_cons_of_mem _ later)
    rw [List.foldl_cons]
    by_cases here : e = d
    · subst here
      by_cases waits : e.isWaiting = true
      · have step : s.repriceStep e e = s.repriced e := by
          unfold State.repriceStep
          by_cases changes : s.repriced e = e <;> simp [waits, changes]
        rw [step, if_pos waits]
        exact s.repriceStep_stands fun _ _ _ => rfl
      · have step : s.repriceStep e e = e := by simp [State.repriceStep, waits]
        rw [step, if_neg waits]
        by_cases again : e ∈ l
        · exact (ih rest again).trans (if_neg waits)
        · exact s.repriceStep_stands fun f later named => absurd (rest f later named ▸ later) again
    · have other : ¬ d.name = e.name := fun named => here (distinct e List.mem_cons_self named.symm)
      have step : s.repriceStep d e = d := by simp [State.repriceStep, other]
      rw [step]
      exact ih rest ((List.mem_cons.1 listed).resolve_left fun same => here same.symm)

theorem State.chunks_recompute (s : State) (names : (s.chunks.map (·.name)).Nodup) :
    s.recompute.chunks = s.chunks.map fun c => if c.isWaiting then s.repriced c else c := by
  have walk (l : List Chunk) (u : State) (pools : u.pools = s.pools) : (l.foldl (fun s c =>
      if c.isWaiting && s.repriced c ≠ c then s.updChunk c.name s.repriced else s) u).chunks =
        u.chunks.map fun d => l.foldl s.repriceStep d := by
    induction l generalizing u with
    | nil => simp
    | cons c l ih =>
      rw [List.foldl_cons]
      split
      · next changes =>
        rw [ih _ (((u.updChunk_touches c.name u.repriced).get .pools rfl).trans pools), State.chunks_updChunk, List.map_map]
        rw [State.repriced_congr pools] at changes ⊢
        refine List.map_congr_left fun d _ => ?_
        rw [List.foldl_cons]
        simp only [Function.comp, State.repriceStep, if_pos changes]
      · next stands =>
        rw [ih _ pools]
        rw [State.repriced_congr pools] at stands
        refine List.map_congr_left fun d _ => ?_
        rw [List.foldl_cons]
        simp only [State.repriceStep, if_neg stands]
  rw [State.recompute, walk s.chunks s rfl]
  exact List.map_congr_left fun d listed => s.foldl_repriceStep
    (fun e among named => List.inj_on_of_nodup_map names among listed named) listed

/-- Settles O54. -/
theorem setupIsEnteredAndLeft : Obligations.SetupIsEnteredAndLeft := by
  intro p tag s hears g answer
  refine ⟨fun running idle free => ?_, fun setup names => ?_⟩
  · let u : State := { g.clearWork with opState := .setup }
    have unmet : g.setupUnmet = none := by
      have takes : ¬ g.takes.any (fun e => e.2.isOpen) = true := by simpa [g] using idle
      have chunks : ¬ g.chunks.any (fun c => c.state = .offered || c.state = .held || c.state = .lapsing) = true := by
        simp only [g, State.goodFrame_chunks, List.any_eq_true, not_exists, not_and]
        intro c listed
        rcases free c listed with parked | pending <;> simp [*]
      rw [State.setupUnmet, if_neg takes, if_neg chunks]
    have run : exec (.enterSetup p tag) s = .next (u.reply { port := p, tag := tag, code := 0x50 } .ok []) := by
      refine (State.role_run hears tag 0x50 _).trans (congrArg _ ?_)
      rw [unmet]
      exact if_neg (by simp [running])
    have clears := g.clearWork_touches
    have sets : Touches [.opState] g.clearWork u := State.opState_touches _ _
    have link : u.link p = g.link p := State.link_clearWork g p
    rw [State.desk_answers hears link rfl] at run
    refine ⟨_, run, rfl, fun k => ?_, fun q => ?_, rfl, ?_⟩
    · rw [← State.pool_goodFrame s p k]
      cases k <;> rfl
    · rw [← s.handoff_goodFrame p q]
      exact State.handoff_clearWork g q
    · rw [← State.desk_answers hears link rfl]
      exact .seq (s.goodFrame_touches p) (.seq (ps := [.link, .opState, .pools, .handoff, .out]) clears
        (.seq (ps := [.link, .opState, .pools, .handoff, .out]) sets (State.reply_touches _ _ _ _)))
  · let u : State := { g.recompute with opState := .run }
    have run : exec (.leaveSetup p tag) s = .next (u.reply { port := p, tag := tag, code := 0x51 } .ok []) :=
      (State.role_run hears tag 0x51 _).trans (congrArg _ (if_pos (by simp [setup])))
    have prices := g.recompute_touches
    have sets : Touches [.opState] g.recompute u := State.opState_touches _ _
    have chunks : g.chunks = s.chunks := s.goodFrame_chunks p
    refine ⟨_, run, (State.reply_touches _ _ _ _).get .opState rfl, ?_, ?_, ?_⟩
    · refine ((State.reply_touches _ _ _ _).get .chunks rfl).trans ?_
      have priced := g.chunks_recompute (by rw [chunks]; exact names)
      rw [chunks, State.repriced_congr (s.goodFrame_pools p)] at priced
      refine priced.trans (List.map_congr_left fun c _ => ?_)
      simp only [Chunk.isWaiting, Bool.or_eq_true, decide_eq_true_eq, or_assoc]
      rfl
    · exact (State.out_reply_sent (by exact (show u.link p = g.link p from prices.link rfl p) ▸ hears.takes_frames) _ _).trans
        (congrArg (· ++ _) (prices.get .out rfl))
    · exact .seq (s.goodFrame_touches p) (.seq (ps := [.link, .opState, .chunks, .handoff, .out]) prices
        (.seq (ps := [.link, .opState, .chunks, .handoff, .out]) sets (State.reply_touches _ _ _ _)))

/-! ### The clearance table -/

theorem State.portOfStation_spec {station : Nat} (found : s.portOfStation station = some q) :
    (s.link q).isAttached = true ∧ (s.link q).station = some station := by
  have meets := List.find?_some found
  simpa using meets

theorem State.portOfStation_eq {station : Nat} (attached : (s.link q).isAttached = true)
    (named : (s.link q).station = some station)
    (alone : ∀ r, (s.link r).isAttached = true → (s.link r).station = some station → r = q) :
    s.portOfStation station = some q := by
  cases found : s.portOfStation station with
  | none =>
    have absent := List.find?_eq_none.1 found q (mem_allPorts q)
    simp [attached, named] at absent
  | some r =>
    obtain ⟨there, same⟩ := State.portOfStation_spec found
    rw [alone r there same]

/-- The write of a level that finds room (R161). -/
theorem writeClearance_leaves {u : Table Nat} {station l : Nat} (wf : u.wf)
    (room : l = 0 ∨ (Table.find u station).isSome = true ∨ u.length < 32) :
    ∃ t, writeClearance u station l = some t ∧ Table.find t station = (if l = 0 then none else some l) ∧
      ∀ m, m ≠ station → Table.find t m = Table.find u m := by
  unfold writeClearance
  by_cases off : l = 0
  · rw [if_pos off, if_pos off]
    exact ⟨_, rfl, TableLaws.find_drop_self wf station, fun m other => TableLaws.find_drop_ne other⟩
  · rw [if_neg off, if_neg off, if_pos (Bool.or_eq_true_iff.2
      ((room.resolve_left off).imp_right fun short => decide_eq_true (show u.length < Config.clearanceEntries from short)))]
    exact ⟨_, rfl, TableLaws.find_put_self station l, fun m other => TableLaws.find_put_ne other l⟩

/-- SET_CLEARANCE of a level that finds room (R161, R162). -/
theorem State.clearance_written {t : Table Nat} {station old l : Nat} (takes : (g.link p).takesFrames = true) (r : Result)
    (tag : Byte) : let w := State.carryClearance { g with clearances := t } station old l
    let v := w.reply { port := p, tag := tag, code := 0x49 } r [.level l, .unlisted (.entriesInUse t.length)]
    ∃ sent, v.clearances = t ∧
      (∀ q, (g.link q).isAttached = true → (g.link q).station = some station →
        (∀ r, (g.link r).isAttached = true → (g.link r).station = some station → r = q) →
        old ≠ l → v.link q = { g.link q with clearance := l }) ∧
      v.out = g.out ++ sent ++ [(p, .reply tag
        { code := 0x49, result := r, items := [.level l, .unlisted (.entriesInUse t.length)] })] ∧
      Touches (.clearances :: .link :: offerParts) g v := by
  intro w v
  have sets := g.clearances_touches t
  have carries := State.carryClearance_touches { g with clearances := t } station old l
  have answers : Touches [.out] w v := State.reply_touches _ _ _ _
  have links (q : PortNo) := State.link_carryClearance { g with clearances := t } station old l q
  have takes' : (w.link p).takesFrames = true := by
    rw [links]
    split <;> exact takes
  have out := State.out_reply_sent (w := w) (c := { port := p, tag := tag, code := 0x49 }) takes' r
    [.level l, .unlisted (.entriesInUse t.length)]
  obtain ⟨sent, grows⟩ := carries.get .grows rfl
  refine ⟨sent, ?_, fun q attached named alone moves => ?_, ?_, ?_⟩
  · rw [answers.get .clearances rfl, carries.get .clearances rfl]
  · have found : State.portOfStation { g with clearances := t } station = some q :=
      State.portOfStation_eq attached named alone
    rw [answers.link rfl, links, if_pos ⟨found, moves⟩]
    rfl
  · rw [out, grows]
  · exact .seq sets (.seq (ps := .clearances :: .link :: offerParts) carries answers)

/-- Settles O52. -/
theorem clearanceTableIsKept : Obligations.ClearanceTableIsKept := by
  intro p tag station level s hears low high wf g l old
  have table : g.clearances = s.clearances := s.goodFrame_clearances p
  have named : ¬ (station = 0 || 65535 < station) = true := by simp; omega
  have write : exec (.setClearance p tag station level) s = .next (match writeClearance s.clearances station l with
      | none => g.refuse { port := p, tag := tag, code := 0x49 } .tableFull
      | some t => (State.carryClearance { g with clearances := t } station old l).reply
          { port := p, tag := tag, code := 0x49 } (if decide (l ≠ level) then .clamped else .ok)
          [.level l, .unlisted (.entriesInUse t.length)]) := by
    refine (State.role_run hears tag 0x49 _).trans (congrArg _ ((if_neg named).trans ?_))
    rw [clamp_zero, table]
    dsimp only
    simp only [State.replyBoth_eq]
    rfl
  refine ⟨fun room => ?_, fun level_is absent full => ?_, ?_⟩
  · obtain ⟨t, written, here, others⟩ := writeClearance_leaves wf room
    rw [written] at write
    obtain ⟨sent, kept, carried, out, touched⟩ := State.clearance_written (g := g) (t := t) (station := station)
      (old := old) (l := l) hears.takes_frames (if decide (l ≠ level) then .clamped else .ok) tag
    have result : (if decide (l ≠ level) = true then Result.clamped else .ok) = if l = level then .ok else .clamped := by
      by_cases same : l = level <;> simp [same]
    refine ⟨_, sent, write, by rw [kept, here], fun m other => by rw [kept, others m other], carried, ?_, ?_⟩
    · rw [kept, out, result]
    · exact .seq (s.goodFrame_touches p) touched
  · have refused : writeClearance s.clearances station l = none := by
      have tight : decide (s.clearances.length < Config.clearanceEntries) = false := decide_eq_false (Nat.not_lt.2 full)
      unfold writeClearance
      rw [if_neg level_is, absent, tight]
      rfl
    rw [refused] at write
    exact write.trans (congrArg _ ((State.refuse_eq _ _ _).trans (State.desk_answers hears rfl rfl tag 0x49 _ _)))
  · refine State.query_run hears tag 0x4A ((if_neg named).trans ?_)
    rw [table]
    rfl

/-! ### Exports -/

/-- The context of an export as it begins (R126). -/
def Ctx.exportOf (take stop : Nat) (closed : Bool) : Ctx :=
  { take := take, kind := .exporting, startBound := 0, endBound := stop, cursor := 0, mode := .playing
    pacing := .onData, stack := [], readAhead := [], outstanding := false, stretch := false, damagedCount := 0
    silenced := false, closedAtBegin := closed }

/-- An export that has sent nothing and has more than its start to send asks for its first read (R121). -/
theorem State.continueExport_begun {take stop : Nat} {closed : Bool} (ctx : s.ctx p = some (.exportOf take stop closed))
    (more : 0 < stop) : s.continueExport p = s.askReads p := by
  unfold State.continueExport State.runExport
  rw [ctx]
  exact if_neg (Nat.not_le.2 more)

/-- An export of nothing ends at once (R128). -/
theorem State.continueExport_empty {take : Nat} {closed : Bool} (ctx : s.ctx p = some (.exportOf take 0 closed)) :
    s.continueExport p = s.completeExport p (.exportOf take 0 closed) := by
  unfold State.continueExport State.runExport
  rw [ctx]
  exact if_pos (Nat.le_refl 0)

/-- What the end of an export leaves (R128). -/
theorem State.completeExport_leaves (ctx : s.ctx p = some x) (found : s.take? x.take = some t) :
    let v := s.completeExport p x
    v.ctx p = none ∧ v.take? x.take = some { t with
      exported := t.exported || (x.closedAtBegin && !x.silenced), readers := t.readers - 1 } ∧
      v.out = s.out ++ s.noticeTo p (.exportEnd x.take x.endBound x.damagedCount x.silenced) ∧
      Touches [.ctx, .takes, .arbiter, .out] s v := by
  let a := s.notify p (.exportEnd x.take x.endBound x.damagedCount x.silenced)
  let b := if x.closedAtBegin && !x.silenced then a.updTake x.take (fun t => { t with exported := true }) else a
  have tells : Touches [.out] s a := State.notify_touches _ _ _
  have marks : Touches [.takes] a b := .ite (fun _ => State.flag_touches _ _ _) (fun _ => .refl _ _)
  have removes := b.removeCtx_touches p
  have found' : a.take? x.take = some t := (tells.take? rfl _).trans found
  have marked : b.take? x.take = some { t with exported := t.exported || (x.closedAtBegin && !x.silenced) } := by
    unfold b
    split
    · next sent => rw [sent, Bool.or_true]; exact (TakeBecomes.updTake found' fun t => { t with exported := true }).here
    · next spoilt => rw [Bool.eq_false_iff.2 spoilt, Bool.or_false]; exact found'
  have ctx' : b.ctx p = some x := by rw [marks.get .ctx rfl, tells.get .ctx rfl, ctx]
  intro v
  have whole : v = b.removeCtx p := rfl
  rw [whole]
  refine ⟨by rw [State.ctx_removeCtx, if_pos rfl], (TakeBecomes.removeCtx ctx' marked).here, ?_, ?_⟩
  · rw [removes.get .out rfl, marks.get .out rfl, State.notify_out]
  · exact .seq tells (.seq (ps := [.ctx, .takes, .arbiter, .out]) marks removes)

/-- Settles O48. -/
theorem exportBeginsAndStops : Obligations.ExportBeginsAndStops := by
  intro p tag take s t hears found g closed answer
  obtain rfl := State.take?_id found
  have found' : g.take? t.id = some t := (s.take?_goodFrame p _).trans found
  have good := s.goodFrame_touches p
  let a := g.createCtx p .exporting t.id 0 t.endTime 0 .playing closed
  let items : List Item := [.takeId t.id, .time t.endTime, .unlisted (.answer closed)]
  let b := a.reply { port := p, tag := tag, code := 0x43 } .ok items
  have begins := g.createCtx_touches p .exporting t.id 0 t.endTime 0 .playing closed
  have answers : Touches [.out] a b := State.reply_touches _ _ _ _
  have run (free : s.ctx p = none) (live : t.state ≠ .releasing) :
      exec (.exportBegin p tag t.id) s = .next (b.continueExport p) := by
    refine (State.role_run hears tag 0x43 _).trans (congrArg _ ((if_neg ?_).trans ?_))
    · rw [State.ctx_goodFrame, free]; simp
    · rw [show (s.goodFrame p).take? t.id = some t from found']
      exact if_neg live
  have ctx : b.ctx p = some (.exportOf t.id t.endTime closed) := by
    rw [answers.get .ctx rfl, State.ctx_createCtx, if_pos rfl]
    have start : clamp 0 t.endTime (even 0) = 0 := by rw [clamp_zero]; exact Nat.min_zero _
    rw [start]
    rfl
  have read : b.take? t.id = some { t with readers := t.readers + 1 } :=
    (answers.take? rfl _).trans (TakeBecomes.createCtx found' p .exporting 0 t.endTime 0 .playing closed).here
  have out : b.out = answer := by
    have sent := State.out_reply_sent (w := a) (c := { port := p, tag := tag, code := 0x43 })
      (by rw [begins.link rfl p]; exact hears.takes_frames) .ok items
    rw [sent, begins.get .out rfl]
  refine ⟨fun free live more => ?_, fun free live empty => ?_, fun x there mine => ?_⟩
  · have begun := run free live
    rw [State.continueExport_begun ctx more] at begun
    have asks := b.askReads_touches p
    refine ⟨_, begun, ?_, (asks.take? rfl _).trans read, (asks.get .out rfl).trans out, ?_⟩
    · have wants : (Ctx.exportOf t.id t.endTime closed).wantsRead = true := by
        simp [Ctx.wantsRead, Ctx.exportOf, Ctx.readTime, Config.readAheadDepth, more]
      rw [State.ctx_askReads, if_pos rfl, ctx, Option.map_some, wants]
      rfl
    · exact .seq good (.seq (ps := [.link, .ctx, .damage, .takes, .arbiter, .out]) begins
        (.seq (ps := [.link, .ctx, .damage, .takes, .arbiter, .out]) answers asks))
  · have begun := run free live
    rw [empty] at ctx
    rw [State.continueExport_empty ctx] at begun
    obtain ⟨gone, left, told, ends⟩ := State.completeExport_leaves ctx read
    refine ⟨_, begun, gone, left.trans ?_, told.trans ?_, ?_⟩
    · simp [Ctx.exportOf]
    · rw [out]
      refine congrArg (answer ++ ·) ?_
      rw [State.noticeTo_congr (v := b) (s := g) fun q => (answers.link rfl q).trans (begins.link rfl q)]
      rfl
    · exact .seq good (.seq (ps := [.link, .ctx, .damage, .takes, .arbiter, .out]) begins
        (.seq (ps := [.link, .ctx, .damage, .takes, .arbiter, .out]) answers ends))
  · let w := g.removeCtx p
    have removes := g.removeCtx_touches p
    have ctx' : g.ctx p = some x := (s.ctx_goodFrame p p).trans there
    have stopped : exec (.exportStop p tag) s = .next (w.reply { port := p, tag := tag, code := 0x44 } .ok
        [.takeId t.id, .time x.cursor, .unlisted (.damagedCount x.damagedCount), .unlisted (.answer x.silenced)]) := by
      refine (State.role_run hears tag 0x44 _).trans (congrArg _ ?_)
      rw [show (s.goodFrame p).ctx p = some x from ctx', ← mine]
      rfl
    have removed := TakeBecomes.removeCtx ctx' (by rw [mine]; exact found')
    rw [mine] at removed
    have ended := removed.then_touches (State.reply_touches w { port := p, tag := tag, code := 0x44 } .ok
      [.takeId t.id, .time x.cursor, .unlisted (.damagedCount x.damagedCount), .unlisted (.answer x.silenced)])
    refine ⟨_, stopped, ?_, ended.here, ?_, ?_⟩
    · rw [State.ctx_reply, State.ctx_removeCtx, if_pos rfl]
    · have sent := State.out_reply_sent (w := w) (c := { port := p, tag := tag, code := 0x44 })
        (by rw [removes.link rfl p]; exact hears.takes_frames) .ok [.takeId t.id, .time x.cursor,
          .unlisted (.damagedCount x.damagedCount), .unlisted (.answer x.silenced)]
      rw [sent, removes.get .out rfl]
    · exact .seq good (.seq (ps := [.link, .ctx, .takes, .arbiter, .out]) removes (State.reply_touches _ _ _ _))

end

end Sys2Proof.Machine

/-!
PROOFS. Desks, takes and chunks (1.6, 1.7, 5.7): the release of a take block by block, the REPOOL of a chunk whose name
another record bears, and the span that a desk restricts.
-/

namespace Sys2Proof.Machine

set_option Elab.async false

section
variable {s v w g : State} {p q : PortNo} {n : Nat} {c d : Chunk} {t u : Take} {x : Ctx} {k : PoolId}
  {tag : Byte} {code : Nat}

/-! ### Releases -/

/-- The record of a release that is complete is gone, and the desks are told (R21). -/
theorem State.completeRelease_leaves (s : State) (n : Nat) :
    (s.completeRelease n).take? n = none ∧ (∀ m, m ≠ n → (s.completeRelease n).take? m = s.take? m) ∧
      (s.completeRelease n).out = s.out ++ s.deskNotices (.released n) := by
  have told := State.notifyDesks_touches { s with takes := s.takes.filter fun e => e.2.id ≠ n } (.released n)
  have find (m : Nat) : (s.completeRelease n).take? m =
      ((s.takes.filter fun e => e.2.id ≠ n).find? fun e => e.2.id = m).map (·.2) := told.take? rfl m
  refine ⟨?_, fun m other => ?_, State.notifyDesks_out _ _⟩
  · have absent : ((s.takes.filter fun e => e.2.id ≠ n).find? fun e => e.2.id = n) = none :=
      List.find?_eq_none.2 fun e listed => by simpa using (List.mem_filter.1 listed).2
    rw [find, absent]
    rfl
  · have same : ((s.takes.filter fun e => e.2.id ≠ n).find? fun e => e.2.id = m) =
        s.takes.find? fun e => e.2.id = m := by
      rw [List.find?_filter]
      refine congrArg (fun f => s.takes.find? f) (funext fun e => ?_)
      by_cases here : e.2.id = m <;> simp [here, other]
    rw [find, same]
    rfl

/-- The head block of a chain is free again, and holds nothing (R21). -/
theorem State.freeHead_leaves (found : s.take? n = some t) (directory : s.directory.wf) (store : s.store.wf) (block : Nat) :
    let v := s.freeHead n block
    v.free.toList = s.free.toList ++ [block] ∧ Table.find v.directory block = none ∧ Table.find v.store block = none ∧
      (∀ b, b ≠ block → Table.find v.directory b = Table.find s.directory b ∧
        Table.find v.store b = Table.find s.store b) ∧
      TakeBecomes n s v { t with chain := t.chain.tail } := by
  intro v
  let a := s.updTake n fun t => { t with chain := t.chain.tail }
  let b : State := { a with
    free := a.free.push block, directory := Table.drop a.directory block, store := Table.drop a.store block }
  have tests : Touches [.lowFlag, .out] b v := b.testLow_touches
  have shorter := TakeBecomes.updTake found fun t => { t with chain := t.chain.tail }
  have becomes : TakeBecomes n s b { t with chain := t.chain.tail } := ⟨shorter.here, shorter.others⟩
  refine ⟨?_, ?_, ?_, fun m other => ⟨?_, ?_⟩, becomes.then_touches tests⟩
  · rw [tests.get .free rfl]; exact TableLaws.freeList_push s.free block
  · rw [tests.get .directory rfl]; exact TableLaws.find_drop_self directory block
  · rw [tests.get .store rfl]; exact TableLaws.find_drop_self store block
  · rw [tests.get .directory rfl]; exact TableLaws.find_drop_ne other
  · rw [tests.get .store rfl]; exact TableLaws.find_drop_ne other

theorem State.grant_of_busy (busy : s.arbiter.tenure.isSome = true) : s.grant = s := if_pos busy

theorem Take.releaseUnmet_none (closed : t.state = .closed) (exported : t.exported = true)
    (finished : t.chunksMade = t.chunksFinished) (served : t.deferred = false) (unread : t.readers = 0) :
    t.releaseUnmet = none := by
  simp [Take.releaseUnmet, closed, exported, finished, served, unread]

/-- What a release step touches (R21, R56). -/
abbrev releaseStepParts : List Part :=
  [.takes, .takeKeys, .chains, .cues, .directory, .store, .free, .arbiter, .lowFlag, .out]

/-- A step of a release (R21, R56). -/
theorem State.release_stepped {b start : Nat} {rest : List (Nat × Nat)} (running : s.resetHeld = false)
    (tenure : s.arbiter.tenure = some (.release n)) (found : s.take? n = some t) (chain : t.chain = (b, start) :: rest)
    (directory : s.directory.wf) (store : s.store.wf) :
    ∃ v, exec .releaseStepComplete s = .next v ∧
      v.free.toList = s.free.toList ++ [b] ∧ Table.find v.directory b = none ∧ Table.find v.store b = none ∧
      (∀ c, c ≠ b → Table.find v.directory c = Table.find s.directory c ∧ Table.find v.store c = Table.find s.store c) ∧
      v.take? n = (if rest = [] then none else some { t with chain := rest }) ∧ (∀ m, m ≠ n → v.take? m = s.take? m) ∧
      Touches releaseStepParts s v := by
  let a := s.freeHead n b
  let d := if rest.isEmpty then a.completeRelease n else a
  have run : exec .releaseStepComplete s = .next d.endTenure.grant := by
    change execReleaseStepComplete s = _
    rw [execReleaseStepComplete, State.running_eq running, tenure]
    dsimp only
    rw [found, Option.map_some, chain]
  have frees := s.freeHead_touches n b
  have completes : Touches [.takes, .takeKeys, .chains, .cues, .out] a d :=
    .ite (fun _ => a.completeRelease_touches n) (fun _ => .refl _ _)
  have grants : Touches [.arbiter] d d.endTenure.grant := .seq d.endTenure_touches (State.grant_touches _)
  have ends : Touches [.takes, .takeKeys, .chains, .cues, .arbiter, .out] a d.endTenure.grant := .seq completes grants
  obtain ⟨list, entry, content, others, becomes⟩ := State.freeHead_leaves found directory store b
  rw [chain, List.tail_cons] at becomes
  refine ⟨_, run, ?_, ?_, ?_, fun c other => ?_, ?_, fun m other => ?_, .seq frees ends⟩
  · rw [ends.get .free rfl]; exact list
  · rw [ends.get .directory rfl]; exact entry
  · rw [ends.get .store rfl]; exact content
  · rw [ends.get .directory rfl, ends.get .store rfl]; exact others c other
  · rw [grants.take? rfl]
    by_cases last : rest = []
    · rw [if_pos last]
      exact (congrArg (State.take? · n) (if_pos (by simp [last]))).trans (a.completeRelease_leaves n).1
    · rw [if_neg last]
      exact (congrArg (State.take? · n) (if_neg (by simp [last]))).trans becomes.here
  · rw [grants.take? rfl]
    refine Eq.trans ?_ (becomes.others m other)
    unfold d
    split
    · exact (a.completeRelease_leaves n).2.1 m other
    · rfl

/-- Settles O47. -/
theorem releaseRunsBlockByBlock : Obligations.ReleaseRunsBlockByBlock := by
  intro p tag take s t found g
  have found' : g.take? take = some t := (s.take?_goodFrame p _).trans found
  have gate (hears : s.hears p .desk) : exec (.releaseTake p tag take) s = .next (match t.releaseUnmet with
      | some u => g.refuseUnmet { port := p, tag := tag, code := 0x42 } u
      | none =>
        let h := (g.updTake take fun t => { t with state := .releasing }).reply { port := p, tag := tag, code := 0x42 } .ok []
        if t.chain.isEmpty then h.completeRelease take else h.requestRelease take t.chain.length) := by
    refine (State.role_run hears tag 0x42 _).trans (congrArg _ ?_)
    rw [show (s.goodFrame p).take? take = some t from found']
    rfl
  refine ⟨fun hears u unmet => ?_, ?_,
    fun running tenure b start rest chain directory store =>
      State.release_stepped running tenure found chain directory store⟩
  · refine (gate hears).trans (congrArg _ ?_)
    rw [unmet]
    exact State.desk_answers hears rfl rfl tag 0x42 _ _
  · intro hears closed exported finished served unread answer
    have run := gate hears
    rw [Take.releaseUnmet_none closed exported finished served unread] at run
    let a := g.updTake take fun t => { t with state := .releasing }
    let h := a.reply { port := p, tag := tag, code := 0x42 } .ok []
    have marks : Touches [.takes] g a := State.flag_touches _ _ _
    have answers : Touches [.out] a h := State.reply_touches _ _ _ _
    have becomes : TakeBecomes take s h { t with state := .releasing } :=
      ((TakeBecomes.of_touches found (s.goodFrame_touches p)).trans
        (.updTake found' fun t => { t with state := .releasing })).then_touches answers
    have out : h.out = answer :=
      State.out_reply_sent (w := a) (c := { port := p, tag := tag, code := 0x42 }) hears.takes_frames .ok []
    have good := s.goodFrame_touches p
    by_cases empty : t.chain = []
    · have step : exec (.releaseTake p tag take) s = .next (h.completeRelease take) :=
        run.trans (congrArg _ (if_pos (by simp [empty])))
      obtain ⟨gone, others, told⟩ := h.completeRelease_leaves take
      have completes := h.completeRelease_touches take
      refine ⟨_, step, fun _ => ⟨gone, ?_, ?_⟩, fun held => absurd empty held, fun m other => ?_, ?_⟩
      · rw [told, out, State.deskNotices_congr (s := g) fun q => answers.link rfl q]
      · rw [completes.get .arbiter rfl, answers.get .arbiter rfl, marks.get .arbiter rfl]
        exact s.goodFrame_arbiter p
      · exact (others m other).trans (becomes.others m other)
      · exact .seq good (.seq (ps := [.link, .takes, .takeKeys, .chains, .cues, .arbiter, .out]) marks
          (.seq (ps := [.link, .takes, .takeKeys, .chains, .cues, .arbiter, .out]) answers completes))
    · have step : exec (.releaseTake p tag take) s = .next (h.requestRelease take t.chain.length) :=
        run.trans (congrArg _ (if_neg (by simp [empty])))
      have asks := h.requestRelease_touches take t.chain.length
      have arbiter : h.arbiter = s.arbiter := by
        rw [answers.get .arbiter rfl, marks.get .arbiter rfl]
        exact s.goodFrame_arbiter p
      refine ⟨_, step, fun none => absurd none empty, fun _ => ⟨?_, ?_, fun busy => ?_⟩, fun m other => ?_, ?_⟩
      · exact (asks.take? rfl _).trans becomes.here
      · rw [asks.get .out rfl, out]
      · unfold State.requestRelease
        rw [State.grant_of_busy (by rw [← arbiter] at busy; exact busy)]
        dsimp only
        rw [arbiter]
      · exact (asks.take? rfl _).trans (becomes.others m other)
      · exact .seq good (.seq (ps := [.link, .takes, .takeKeys, .chains, .cues, .arbiter, .out]) marks
          (.seq (ps := [.link, .takes, .takeKeys, .chains, .cues, .arbiter, .out]) answers asks))

/-! ### REPOOL of a chunk whose name another record bears

No two live chunks of a run bear one name, but O49 speaks of every state.  Where an OFFERED record stays in its pool
and a PENDING record of the same name stands behind it, the pass that follows the REPOOL offers the second, and an
offer writes every record of its name: the first names the new offeree. -/

/-- An OFFERED chunk of pool A. -/
def twinOffered : Chunk :=
  { name := { take := 1, ordinal := 1 }, ownStart := 0, ownEnd := 2, playStart := 0, required := 0, billable := 0
    estimate := 0, due := 0, key := 0, pool := some .a, state := .offered, arrival := 0, offeree := none
    holderStation := none, holderPort := none, heldSince := none, savedCursor := none, graceTimer := none
    lastDecliner := none, noOffer := false, recallPending := false, reissues := 0, final := false, merged := false }

/-- A PENDING record of its name stands behind it, port 1 is ready in pool A, and port 0 is attached as a desk. -/
def twinState : State :=
  { State.reset with
    ports := Vector.replicate 16
      { Port.reset with link := { Link.reset with state := .attached, role := some .desk } }
    pools := { State.reset.pools with a := { Pool.reset with ready := [1] } }
    chunks := [twinOffered, { twinOffered with state := .pending }] }

/-- The chunk of a name where a command leaves a state. -/
def chunkAfter (n : ChunkName) : Host.Outcome State Fault Refusal → Option Chunk
  | .next v => v.chunk? n
  | _ => none

/-- The REPOOL of the OFFERED chunk to its own pool offers it to port 1. -/
theorem twinState_offers : chunkAfter twinOffered.name (exec (.repool 0 0 1 1 1) twinState) =
    some (twinOffered.offeredTo 1) := by
  decide +kernel

/-- Refutes O49: the REPOOL of an OFFERED chunk to its own pool does not leave its offeree where another record bears
its name. -/
theorem not_recallAndRepoolMoveTheChunk : ¬ Obligations.RecallAndRepoolMoveTheChunk := by
  intro holds
  have hears : twinState.hears 0 .desk := ⟨rfl, by decide +kernel, by decide +kernel⟩
  have found : twinState.chunk? twinOffered.name = some twinOffered := by decide +kernel
  obtain ⟨-, -, -, stays, -⟩ := holds 0 0 1 .a twinState twinOffered hears found rfl
  obtain ⟨v, -, run, stands, -⟩ := stays rfl rfl
  have offered : v.chunk? twinOffered.name = some (twinOffered.offeredTo 1) := by
    have offers := twinState_offers
    rw [show exec (.repool 0 0 1 1 1) twinState = .next v from run] at offers
    exact offers
  have same : twinOffered.offeredTo 1 = { twinOffered with noOffer := false, lastDecliner := none } :=
    Option.some.inj (offered.symm.trans stands)
  have offeree : some (1 : PortNo) = none := congrArg Chunk.offeree same
  exact absurd offeree (by decide)

/-! ### A desk's span: the exports it spoils -/

/-- An export of the take is marked silenced (R130). -/
def Ctx.spoiled (take : Nat) (x : Ctx) : Ctx :=
  if x.kind = .exporting && x.take = take then { x with silenced := true } else x

theorem Ctx.spoiled_twice (take : Nat) (x : Ctx) : (x.spoiled take).spoiled take = x.spoiled take := by
  unfold Ctx.spoiled
  by_cases of_take : x.kind = .exporting ∧ x.take = take <;> simp [of_take]

theorem State.ctx_spoil (s : State) (take : Nat) (p q : PortNo) : (s.updCtx p (Ctx.spoiled take)).ctx q =
    if q = p then (s.ctx q).map (Ctx.spoiled take) else s.ctx q := by
  unfold State.updCtx
  cases here : s.ctx p with
  | none => by_cases same : q = p <;> simp [same, here]
  | some x => by_cases same : q = p <;> simp [same, here]

/-- The walk over the ports reaches each context of them, and a second visit changes nothing more. -/
theorem State.ctx_spoil_foldl (take : Nat) (walk : List PortNo) (s : State) (q : PortNo) :
    (walk.foldl (fun u p => u.updCtx p (Ctx.spoiled take)) s).ctx q =
      if q ∈ walk then (s.ctx q).map (Ctx.spoiled take) else s.ctx q := by
  induction walk generalizing s with
  | nil => rfl
  | cons p walk ih =>
    rw [List.foldl_cons, ih, State.ctx_spoil]
    by_cases same : q = p
    · have twice : Ctx.spoiled take ∘ Ctx.spoiled take = Ctx.spoiled take := funext (Ctx.spoiled_twice take)
      simp [same, Option.map_map, twice]
    · simp [same]

theorem State.spoilExports_eq (s : State) (take : Nat) : s.spoilExports take =
    (allPorts.foldl (fun u p => u.updCtx p (Ctx.spoiled take)) s).updTake take fun t => { t with exported := false } :=
  rfl

theorem State.ctx_spoilExports (s : State) (take : Nat) (q : PortNo) :
    (s.spoilExports take).ctx q = (s.ctx q).map (Ctx.spoiled take) := by
  rw [State.spoilExports_eq, State.ctx_updTake, State.ctx_spoil_foldl, if_pos (mem_allPorts q)]

/-- A desk's span ends the exported flag of its take (R130). -/
theorem TakeBecomes.spoilExports (found : s.take? n = some t) :
    TakeBecomes n s (s.spoilExports n) { t with exported := false } := by
  have marks : Touches [.ctx] s (allPorts.foldl (fun u p => u.updCtx p (Ctx.spoiled n)) s) :=
    .foldl _ (fun u p => u.updCtx_touches p (Ctx.spoiled n) fun x => by unfold Ctx.spoiled; split <;> rfl) _ s
  have stands := TakeBecomes.of_touches found marks
  rw [State.spoilExports_eq]
  exact stands.trans (.updTake stands.here fun t => { t with exported := false })

/-! ### A desk's span: the chunks it raises -/

theorem insertOrdinal_perm (c : Chunk) (l : List Chunk) : (insertOrdinal c l).Perm (c :: l) := by
  induction l with
  | nil => exact .refl _
  | cons e rest ih =>
    unfold insertOrdinal
    split
    · exact .refl _
    · exact (ih.cons e).trans (.swap c e rest)

theorem mem_foldl_insertOrdinal (walk acc : List Chunk) :
    c ∈ walk.foldl (fun acc c => insertOrdinal c acc) acc ↔ c ∈ walk ∨ c ∈ acc := by
  induction walk generalizing acc with
  | nil => simp
  | cons e walk ih => rw [List.foldl_cons, ih, (insertOrdinal_perm e acc).mem_iff]; simp; tauto

/-- The live chunks of a take (R19). -/
theorem State.mem_chunksOf : c ∈ s.chunksOf n ↔ c ∈ s.chunks ∧ c.name.take = n := by
  rw [State.chunksOf, mem_foldl_insertOrdinal]
  simp

/-- From `s` to `v` every chunk keeps its name and its play span, and no required clearance falls. -/
def OnlyRaises (s v : State) : Prop :=
  List.Forall₂ (fun c d => d.name = c.name ∧ d.playStart = c.playStart ∧ d.ownEnd = c.ownEnd ∧
    c.required ≤ d.required) s.chunks v.chunks

/-- Every chunk of a name requires at least this level. -/
def State.requires (s : State) (n : ChunkName) (level : Nat) : Prop :=
  ∀ c ∈ s.chunks, c.name = n → level ≤ c.required

namespace OnlyRaises
variable {m : ChunkName} {level : Nat} {ps : List Part}

theorem refl (s : State) : OnlyRaises s s := List.forall₂_same.2 fun _ _ => ⟨rfl, rfl, rfl, le_rfl⟩

theorem trans (first : OnlyRaises s v) (second : OnlyRaises v w) : OnlyRaises s w := by
  obtain ⟨length, one⟩ := List.forall₂_iff_get.1 first
  obtain ⟨length', two⟩ := List.forall₂_iff_get.1 second
  refine List.forall₂_iff_get.2 ⟨length.trans length', fun i short short' => ?_⟩
  obtain ⟨name, start, stop, raised⟩ := one i short (length ▸ short)
  obtain ⟨name', start', stop', raised'⟩ := two i (length ▸ short) short'
  exact ⟨name'.trans name, start'.trans start, stop'.trans stop, raised.trans raised'⟩

theorem of_chunks (same : v.chunks = s.chunks) : OnlyRaises s v := by
  unfold OnlyRaises
  rw [same]
  exact refl s

theorem of_map (f : Chunk → Chunk) (chunks : v.chunks = s.chunks.map f) (keeps : ∀ c ∈ s.chunks, (f c).name = c.name ∧
    (f c).playStart = c.playStart ∧ (f c).ownEnd = c.ownEnd ∧ c.required ≤ (f c).required) : OnlyRaises s v := by
  unfold OnlyRaises
  rw [chunks, List.forall₂_map_right_iff]
  exact List.forall₂_same.2 keeps

theorem of_offers {ready : List PortNo} (only : OffersOnly ready s v) : OnlyRaises s v := by
  refine only.chunks.imp fun c d => ?_
  rintro (rfl | ⟨-, q, -, rfl⟩) <;> exact ⟨rfl, rfl, rfl, le_rfl⟩

theorem names (only : OnlyRaises s v) : v.chunks.map (·.name) = s.chunks.map (·.name) := by
  have pairs : List.Forall₂ (· = ·) (s.chunks.map (·.name)) (v.chunks.map (·.name)) := by
    rw [List.forall₂_map_left_iff, List.forall₂_map_right_iff]
    exact List.Forall₂.imp (fun _ _ kept => kept.1.symm) only
  rw [List.forall₂_eq_eq_eq] at pairs
  exact pairs.symm

/-- A chunk afterwards was one before, with as much play span and no more required. -/
theorem chunk_before (only : OnlyRaises s v) (listed : d ∈ v.chunks) : ∃ c ∈ s.chunks, d.name = c.name ∧
    d.playStart = c.playStart ∧ d.ownEnd = c.ownEnd ∧ c.required ≤ d.required := by
  obtain ⟨i, short, rfl⟩ := List.getElem_of_mem listed
  have length := List.Forall₂.length_eq only
  exact ⟨s.chunks[i], List.getElem_mem _, (List.forall₂_iff_get.1 only).2 i (by omega) short⟩

theorem requires (only : OnlyRaises s v) (least : s.requires m level) : v.requires m level := by
  intro d listed name
  obtain ⟨c, before, name', -, -, raised⟩ := only.chunk_before listed
  exact (least c before (name'.symm.trans name)).trans raised

end OnlyRaises

theorem OnlyRaises.withdrawOffer (s : State) (p : PortNo) (noticed rejoins : Bool) :
    OnlyRaises s (s.withdrawOffer p noticed rejoins) := by
  unfold State.withdrawOffer
  dsimp only
  split
  · exact .refl s
  · let a := s.endOffer p Chunk.unoffer noticed
    let b := if rejoins then a.rejoin p (s.offerPool p) else a
    have ends : OnlyRaises s a := by
      have chunks := (s.endOffer_reads p Chunk.unoffer noticed).1
      cases offer : (s.handoff p).offer with
      | none => rw [offer] at chunks; exact .of_chunks chunks
      | some o =>
        rw [offer] at chunks
        refine .of_map _ chunks fun c _ => ?_
        split <;> exact ⟨rfl, rfl, rfl, le_rfl⟩
    have joins : Touches [.pools] a b := .ite (fun _ => State.rejoin_touches _ _ _) (fun _ => .refl _ _)
    exact (ends.trans (.of_chunks (joins.get .chunks rfl))).trans (.of_offers (.offerPassOf b (s.offerPool p)))

theorem State.names_raiseChunk (s : State) (level : Nat) (m : ChunkName) :
    (s.raiseChunk level m).chunks.map (·.name) = s.chunks.map (·.name) := by
  have raised : (s.updChunk m fun c => { c with required := level }).chunks.map (·.name) = s.chunks.map (·.name) := by
    rw [State.chunks_updChunk, List.map_map]
    exact List.map_congr_left fun c _ => by dsimp only [Function.comp]; split <;> rfl
  unfold State.raiseChunk
  split
  · rfl
  · split
    · rfl
    · dsimp only
      split
      · split
        · exact (OnlyRaises.withdrawOffer _ _ true true).names.trans raised
        · exact raised
      · exact raised

theorem State.names_raiseChunks (s : State) (take start stop level : Nat) :
    (s.raiseChunks take start stop level).chunks.map (·.name) = s.chunks.map (·.name) := by
  unfold State.raiseChunks
  induction (s.chunksOf take).filter _ generalizing s with
  | nil => rfl
  | cons c walk ih => exact (ih _).trans (s.names_raiseChunk level c.name)

/-- A chunk that a desk's span meets is raised to its level, and no other falls (R19). -/
theorem State.raiseChunk_raises (names : (s.chunks.map (·.name)).Nodup) (level : Nat) (m : ChunkName) :
    OnlyRaises s (s.raiseChunk level m) ∧ (s.raiseChunk level m).requires m level := by
  unfold State.raiseChunk
  have only (c : Chunk) (found : s.chunk? m = some c) (d : Chunk) (listed : d ∈ s.chunks) (name : d.name = m) : d = c :=
    List.inj_on_of_nodup_map names listed (List.mem_of_find?_eq_some found) (name.trans (State.chunk?_name found).symm)
  split
  · next absent => exact ⟨.refl s, fun c listed name => absurd name (by simpa using List.find?_eq_none.1 absent c listed)⟩
  · next c found =>
    by_cases enough : level ≤ c.required
    · rw [if_pos enough]
      exact ⟨.refl s, fun d listed name => only c found d listed name ▸ enough⟩
    · rw [if_neg enough]
      let a := s.updChunk m fun c => { c with required := level }
      have raises : OnlyRaises s a := by
        refine .of_map _ rfl fun d listed => ?_
        split
        · next name =>
          have same := only c found d listed name
          exact ⟨rfl, rfl, rfl, by rw [same]; exact Nat.le_of_not_le enough⟩
        · exact ⟨rfl, rfl, rfl, le_rfl⟩
      have least : a.requires m level := by
        intro d listed name
        obtain ⟨e, -, rfl⟩ := List.mem_map.1 listed
        revert name
        split
        · exact fun _ => le_rfl
        · next other => exact fun name => absurd name other
      have further (b : State) (more : OnlyRaises a b) : OnlyRaises s b ∧ b.requires m level :=
        ⟨raises.trans more, more.requires least⟩
      dsimp only
      split
      · split
        · exact further _ (.withdrawOffer a _ true true)
        · exact further _ (.refl a)
      · exact further _ (.refl a)

theorem State.raiseWalk_raises (level : Nat) (walk : List Chunk) (s : State) (names : (s.chunks.map (·.name)).Nodup) :
    let v := walk.foldl (fun u c => u.raiseChunk level c.name) s
    OnlyRaises s v ∧ ∀ c ∈ walk, v.requires c.name level := by
  induction walk generalizing s with
  | nil => exact ⟨.refl s, by simp⟩
  | cons c walk ih =>
    obtain ⟨raises, least⟩ := State.raiseChunk_raises names level c.name
    obtain ⟨more, rest⟩ := ih (s.raiseChunk level c.name) (by rw [raises.names]; exact names)
    refine ⟨raises.trans more, fun d listed => ?_⟩
    rcases List.mem_cons.1 listed with rfl | listed
    · exact more.requires least
    · exact rest d listed

/-- After a desk's span every chunk it meets requires its level (R19). -/
theorem State.raiseChunks_raise {start stop level : Nat} (names : (s.chunks.map (·.name)).Nodup)
    (listed : c ∈ (s.raiseChunks n start stop level).chunks) (of_take : c.name.take = n)
    (meets : max c.playStart start < min c.ownEnd stop) : level ≤ c.required := by
  obtain ⟨raises, least⟩ := State.raiseWalk_raises level
    ((s.chunksOf n).filter fun c => overlaps c.playStart c.ownEnd start stop) s names
  obtain ⟨d, before, name, from_start, to_stop, -⟩ := OnlyRaises.chunk_before raises listed
  refine least d (List.mem_filter.2 ⟨State.mem_chunksOf.2 ⟨before, name ▸ of_take⟩, ?_⟩) c listed name
  exact decide_eq_true (by rw [← from_start, ← to_stop]; exact meets)
/-- The state of a desk's span before its reply (R18, R19, R130). -/
def State.restricted (g : State) (take a b l : Nat) : State :=
  (((((g.placeSpan take a b l).spoilExports take).signalCue take a .restrictBegin).signalCue take b .restrictEnd)
    ).raiseChunks take a b l

/-- What an accepted desk's span touches. -/
abbrev deskSpanParts : List Part :=
  [.ctx, .cues, .cueArrival, .takes, .arrivalSeq, .deferral, .pools, .handoff, .chunks, .out]

/-- What a desk's span leaves, up to its reply (R18, R19, R130). -/
theorem State.restricted_leaves (found : s.take? n = some t) (a b l : Nat) :
    let w := (s.placeSpan n a b l).spoilExports n
    let v := s.restricted n a b l
    TakeBecomes n s w { t with
      exported := false
      cues := (s.placeCue n a .restrictBegin (some l) .desk).withCue b .restrictEnd s.lowestCue .desk
        (s.withCue a .restrictBegin (some l) .desk t.cues) } ∧
    CutsOnly n w v ∧ (∀ q, v.ctx q = (s.ctx q).map (Ctx.spoiled n)) ∧ Touches deskSpanParts s v := by
  intro w v
  let x := (w.signalCue n a .restrictBegin).signalCue n b .restrictEnd
  have opens := TakeBecomes.placeCue found a .restrictBegin (some l) .desk
  have placed : TakeBecomes n s (s.placeSpan n a b l) _ := opens.trans (.placeCue opens.here b .restrictEnd s.lowestCue .desk)
  have signals : Touches cutParts w x :=
    .seq (State.signalCue_touches _ _ _ _) (State.signalCue_touches _ _ _ _)
  have raises : Touches offerParts x v := x.raiseChunks_touches n a b l
  have spans := s.placeSpan_touches n a b l
  have spoils := (s.placeSpan n a b l).spoilExports_touches n
  refine ⟨placed.trans (.spoilExports placed.here), ?_, fun q => ?_, ?_⟩
  · exact ((CutsOnly.signalCue n a .restrictBegin w).trans (.signalCue n b .restrictEnd _)).trans (.of_touches raises)
  · rw [raises.get .ctx rfl, signals.get .ctx rfl, State.ctx_spoilExports, spans.get .ctx rfl]
  · exact .seq spans (.seq (ps := deskSpanParts) spoils (.seq (ps := deskSpanParts) signals raises))

theorem State.replyClamped_span (s : State) (c : Cmd) (a b l start stop level : Nat) (items : List Item) :
    s.replyClamped c (a ≠ start || b ≠ stop || l ≠ level) items =
      s.reply c (if a = start ∧ b = stop ∧ l = level then .ok else .clamped)
        (if a = start ∧ b = stop ∧ l = level then [] else items) := by
  rw [State.replyClamped_eq]
  by_cases same : a = start ∧ b = stop ∧ l = level
  · simp [same]
  · rw [if_neg same, if_neg same, if_pos (by simp; tauto), if_pos (by simp; tauto)]

/-- Settles O46. -/
theorem restrictSpanRaisesWhatItMeets : Obligations.RestrictSpanRaisesWhatItMeets := by
  intro p tag take start stop level s t hears found kept room a b l span h
  let g := s.goodFrame p
  let x := g.restricted take a b l
  let c : Cmd := { port := p, tag := tag, code := 0x41 }
  have found' : g.take? take = some t := (s.take?_goodFrame p _).trans found
  have cues : SameCues s g := .goodFrame s p
  have admits : g.admitsSpan = true := by
    rw [cues.admitsSpan]
    exact decide_eq_true room
  have run : exec (.restrictSpan p tag take start stop level) s =
      .next (x.replyClamped c (a ≠ start || b ≠ stop || l ≠ level) [.time a, .time b, .level l]) := by
    refine (State.role_run hears tag 0x41 _).trans (congrArg _ ?_)
    have low : clamp 0 t.endTime (even start) = a := (clamp_zero _ _).trans (Nat.min_comm _ _)
    have high : clamp 0 t.endTime (even stop) = b := (clamp_zero _ _).trans (Nat.min_comm _ _)
    have within : clamp 1 3 level = l := clamp_range (by decide) level
    rw [found']
    dsimp only
    rw [if_neg kept, low, high, within, if_neg (Nat.not_le.2 span), if_pos admits]
    rfl
  obtain ⟨becomes, cuts, exports, touched⟩ := State.restricted_leaves found' a b l
  rw [(cues.placeCue take a .restrictBegin (some l) .desk).withCue, cues.withCue, cues.lowestCue] at becomes
  let r : Result := if a = start ∧ b = stop ∧ l = level then .ok else .clamped
  let items : List Item := if a = start ∧ b = stop ∧ l = level then [] else [.time a, .time b, .level l]
  have answered : x.replyClamped c (a ≠ start || b ≠ stop || l ≠ level) [.time a, .time b, .level l] = x.reply c r items :=
    x.replyClamped_span c a b l start stop level _
  obtain ⟨y, sent, here, apart, -, out⟩ := State.answer_after_cuts (c := c) becomes cuts touched hears.takes_frames r items
  have replies := x.reply_touches c r items
  refine ⟨_, y, sent, run.trans (congrArg _ answered), here, apart, fun q z of_port exporting of_take => ?_,
    fun names d listed of_take meets => ?_, ?_, ?_⟩
  · rw [replies.get .ctx rfl, exports, show g.ctx q = s.ctx q from (s.goodFrame_touches p).get .ctx rfl q, of_port, Option.map_some,
      Ctx.spoiled, if_pos (by simp [exporting, of_take])]
  · rw [replies.get .chunks rfl] at names listed
    refine State.raiseChunks_raise ?_ listed of_take meets
    rw [← State.names_raiseChunks]
    exact names
  · rw [out]
    unfold r items
    split <;> rfl
  · exact .seq (s.goodFrame_touches p) (.seq (ps := .link :: deskSpanParts) touched replies)

end

end Sys2Proof.Machine

/-!
PROOFS. The store (3.4 to 3.6, 7.3, 7.5): the write that completes, the read that completes for a player, and the
frames that a read lets an export send.
-/

namespace Sys2Proof.Machine

set_option Elab.async false

section
variable {s v w g : State} {p q : PortNo} {n : Nat} {t u : Take} {x y z : Ctx} {r : ReadResult}

/-! ### A write completes -/

theorem State.grant_of_none (idle : s.arbiter.tenure = none) (writes : s.arbiter.writes = [])
    (reads : s.arbiter.reads = []) (releases : s.arbiter.releases = []) : s.grant = s := by
  have absent (last : PortNo) : nextPort last [] = none := by simp [nextPort]
  have class_ (k : CtxKind) (last : PortNo) (mark : Arbiter → PortNo → Arbiter) : s.grantClass k last mark = none := by
    rw [State.grantClass, Arbiter.readsOf, reads, List.filter_nil, List.map_nil, absent]
  rw [State.grant_of_idle idle, State.grantWrite, writes, List.map_nil, absent, class_, class_, class_, State.grantRelease,
    releases]
  rfl

/-- Settles O56. -/
theorem writeCompletionStoresTheBlock : Obligations.WriteCompletionStoresTheBlock := by
  intro s r e running tenure listed recs
  let a := s.completeWrite r
  have run : exec .writeTenureComplete s = .next a.endTenure.grant := by
    change execWriteTenureComplete s = _
    rw [execWriteTenureComplete, State.running_eq running, tenure]
  have writes := s.completeWrite_touches r
  have grants : Touches [.arbiter] a a.endTenure.grant := .seq a.endTenure_touches (State.grant_touches _)
  have store : a.store = Table.put s.store r.block { recs := recs, bytes := recsBytes recs } := rfl
  have directory : a.directory = Table.change s.directory r.block
      (fun e => { e with state := .stored, check := some (crc (recsBytes recs)), port := none }) := rfl
  refine ⟨_, run, ?_, ?_, fun b other => ⟨?_, ?_⟩, ?_, fun q other => ?_, fun no_writes no_reads no_releases => ?_,
    .seq writes grants⟩
  · rw [grants.get .store rfl, store, TableLaws.find_put_self]
  · rw [grants.get .directory rfl, directory, TableLaws.find_change, listed, Option.map_some, if_pos rfl]
  · rw [grants.get .store rfl, store, TableLaws.find_put_ne other]
  · rw [grants.get .directory rfl, directory, TableLaws.find_change]
    simp [other]
  · rw [grants.get .intake rfl]
    exact State.buf_setBuf _ _ _ _
  · rw [grants.get .intake rfl]
    exact (State.intake_setBuf _ _ _ _ _).trans (if_neg other)
  · have arbiter : a.arbiter = s.arbiter := writes.get .arbiter rfl
    have idle : a.endTenure.arbiter = { s.arbiter with tenure := none } := congrArg (fun b : Arbiter =>
      { b with tenure := none }) arbiter
    rw [State.grant_of_none (by rw [idle]) (by rw [idle]; exact no_writes) (by rw [idle]; exact no_reads)
      (by rw [idle]; exact no_releases)]
    exact idle

/-! ### A read completes -/

theorem Stored.recs_upset (d : Stored) (upsets : List Upset) : (d.upset upsets).recs = d.recs := by
  unfold Stored.upset
  induction upsets generalizing d with
  | nil => rfl
  | cons u upsets ih =>
    rw [List.foldl_cons, ih]
    split <;> rfl

/-- A read that is still wanted: the content it found is delivered between nothing but grants (R47, R52). -/
theorem State.read_delivers {q : ReadReq} {block : Option Nat} {start stop t0 : Nat} {source : Source}
    {recs : List Rec} {damaged : Bool} (running : s.resetHeld = false)
    (tenure : s.arbiter.tenure = some (.read q block start stop t0 source false)) (upsets : List Upset) (first : Bool)
    (content : s.readContent q block t0 stop source true upsets = (w, recs, damaged)) :
    let result : ReadResult := { block := block, start := start, stop := stop, recStart := t0, recs := recs }
    ∃ a v, exec (.readTenureComplete upsets first) s = .next v ∧ Touches [.arbiter] w a ∧
      Touches [.arbiter] (a.deliver q.port result damaged) v := by
  intro result
  have run : exec (.readTenureComplete upsets first) s = .next (if first
      then (w.deliver q.port result damaged).endTenure.grant else w.endTenure.grant.deliver q.port result damaged) := by
    change execReadTenureComplete upsets first s = _
    rw [execReadTenureComplete, State.running_eq running, tenure]
    simp only [Bool.not_false, content]
    rfl
  have idles (u : State) : Touches [.arbiter] u u.endTenure.grant := .seq u.endTenure_touches (State.grant_touches _)
  cases first
  · exact ⟨_, _, run, idles w, .refl _ _⟩
  · exact ⟨_, _, run, .refl _ _, idles _⟩

section
variable {d : Stored} {e : DirEntry} {b : Nat} (q : ReadReq) (start stop : Nat) (upsets : List Upset)

/-- The store with a block's upsets standing in it. -/
def State.withUpsets (s : State) (b : Nat) (d : Stored) : State := { s with store := Table.put s.store b d }

theorem State.withUpsets_touches (s : State) (b : Nat) (d : Stored) : Touches [.store] s (s.withUpsets b d) :=
  s.store_touches _ fun wf => TableLaws.put_wf wf b d

theorem State.readContent_sound (stored : Table.find s.store b = some d) (listed : Table.find s.directory b = some e)
    (sound : e.check = some (crc (d.upset upsets).bytes)) :
    s.readContent q (some b) start stop .stored true upsets =
      (s.withUpsets b (d.upset upsets), (d.upset upsets).content, false) := by
  simp only [State.readContent, State.readStored, stored, listed, if_pos sound] <;> rfl

theorem State.readContent_mismatch (stored : Table.find s.store b = some d)
    (listed : Table.find s.directory b = some e) (upset : e.check ≠ some (crc (d.upset upsets).bytes)) :
    s.readContent q (some b) start stop .stored true upsets =
      (((s.withUpsets b (d.upset upsets)).markDamaged b e.owner).tellDamage q.port b e.owner start stop true, [], true) := by
  simp only [State.readContent, State.readStored, stored, listed, if_neg upset] <;> rfl

theorem State.readContent_damaged (s : State) (b : Nat) : s.readContent q (some b) start stop .damaged true upsets =
    (s.readDamaged q b start stop true, [], true) := rfl

end

theorem State.lastDamage_tellPlayer (s : State) (p : PortNo) (b n start stop : Nat) :
    ((s.tellPlayer p b n start stop).port p).lastDamage = some b := by
  simp [State.tellPlayer]

theorem State.lastDamage_tellDamage (s : State) (p : PortNo) (b n start stop : Nat) :
    ((s.tellDamage p b n start stop true).port p).lastDamage = some b := by
  have told := State.notifyEach_touches (s.tellPlayer p b n start stop)
    ((s.portsOf [.desk]).filter fun q => !(true && q = p)) (.damagedBlock n start stop)
  exact (told.get .damage rfl p).trans (s.lastDamage_tellPlayer p b n start stop)

theorem State.lastDamage_readDamaged (s : State) (q : ReadReq) (b start stop : Nat) :
    ((s.readDamaged q b start stop true).port q.port).lastDamage = some b := by
  unfold State.readDamaged
  by_cases told : (s.port q.port).lastDamage = some b
  · rw [if_neg (by simp [told])]; exact told
  · rw [if_pos (by simp [told])]; exact s.lastDamage_tellPlayer _ _ _ _ _

/-- What a mismatch marks (R53). -/
theorem State.markDamaged_leaves {e : DirEntry} {b : Nat} (listed : Table.find s.directory b = some e) (owner : Nat) :
    Table.find (s.markDamaged b owner).directory b = some { e with state := .damaged } ∧
      ∀ m t, s.take? m = some t → (s.markDamaged b owner).take? m =
        some (if m = owner then { t with damagedSeen := t.damagedSeen + 1 } else t) := by
  refine ⟨?_, fun m t found => ?_⟩
  · have directory : (s.markDamaged b owner).directory =
        Table.change s.directory b (fun e => { e with state := .damaged }) := rfl
    rw [directory, TableLaws.find_change, listed, Option.map_some, if_pos rfl]
  · let a : State := { s with directory := Table.change s.directory b fun e => { e with state := .damaged } }
    by_cases same : m = owner
    · subst same
      rw [if_pos rfl]
      exact (TakeBecomes.updTake (s := a) found fun t => { t with damagedSeen := t.damagedSeen + 1 }).here
    · rw [if_neg same]
      exact (State.take?_updTake_ne a same (fun t => { t with damagedSeen := t.damagedSeen + 1 }) (fun _ => rfl)).trans found

/-- A mismatch leaves the block DAMAGED with the upsets in the store, counts it once, and is told to the player (R53). -/
theorem State.mismatch_leaves {d : Stored} {e : DirEntry} {b : Nat} (listed : Table.find s.directory b = some e)
    (p : PortNo) (start stop : Nat) :
    let v := ((s.withUpsets b d).markDamaged b e.owner).tellDamage p b e.owner start stop true
    Table.find v.store b = some d ∧ Table.find v.directory b = some { e with state := .damaged } ∧
      (∀ t, s.take? e.owner = some t → v.take? e.owner = some { t with damagedSeen := t.damagedSeen + 1 }) ∧
      (v.port p).lastDamage = some b ∧ Touches damageParts s v := by
  intro v
  let a := s.withUpsets b d
  let m := a.markDamaged b e.owner
  have upset := s.withUpsets_touches b d
  have marks := a.markDamaged_touches b e.owner
  have tells := m.tellDamage_touches p b e.owner start stop true
  obtain ⟨entry, takes⟩ := State.markDamaged_leaves (s := a) listed e.owner
  refine ⟨?_, ?_, fun t found => ?_, m.lastDamage_tellDamage p b e.owner start stop,
    .seq upset (.seq (ps := damageParts) marks tells)⟩
  · rw [tells.get .store rfl, marks.get .store rfl]
    exact TableLaws.find_put_self _ _
  · rw [tells.get .directory rfl]
    exact entry
  · rw [tells.take? rfl, takes e.owner t found, if_pos rfl]

/-- A result joins the read-ahead of a player that waits for its next frame to fall due (R121). -/
theorem State.deliver_waiting (ctx : s.ctx p = some x) (plays : x.kind ≠ .exporting) (playing : x.mode = .playing)
    (due : x.pacing = .due) (r : ReadResult) (damaged : Bool) :
    (∃ y, (s.deliver p r damaged).ctx p = some y ∧ y.readAhead = x.readAhead ++ [r] ∧ y.cursor = x.cursor) ∧
      Touches [.ctx, .arbiter] s (s.deliver p r damaged) := by
  let z : Ctx := { x with outstanding := false, readAhead := x.readAhead ++ [r] }
  let a := s.setCtx p (some z)
  have joins : Touches [.ctx] s a := State.reCtx_touches ctx z rfl
  have ctx' : a.ctx p = some z := by simp [a]
  have waits : a.sendIfCovered p = a := by
    unfold State.sendIfCovered
    rw [ctx']
    simp [z, playing, due]
  have whole : s.deliver p r damaged = a.askReads p := by
    unfold State.deliver
    rw [ctx]
    dsimp only
    split
    · next kind => exact absurd kind plays
    · exact congrArg (State.askReads · p) waits
    · exact congrArg (State.askReads · p) waits
  rw [whole]
  refine ⟨⟨{ z with outstanding := z.outstanding || z.wantsRead }, ?_, rfl, rfl⟩, .seq joins (a.askReads_touches p)⟩
  rw [State.ctx_askReads, if_pos rfl, ctx']
  rfl

/-- A read that completes for a player that waits for its next frame to fall due (R46, R52 to R54, R121). -/
theorem State.read_completes_playing {q : ReadReq} {b start stop t0 : Nat} {source : Source}
    (running : s.resetHeld = false) (tenure : s.arbiter.tenure = some (.read q (some b) start stop t0 source false))
    (ctx : s.ctx q.port = some x) (plays : x.kind ≠ .exporting) (playing : x.mode = .playing) (due : x.pacing = .due)
    (upsets : List Upset) (first : Bool) :
    ∃ v, exec (.readTenureComplete upsets first) s = .next v ∧ ∀ w recs damaged,
      s.readContent q (some b) t0 stop source true upsets = (w, recs, damaged) →
      (∃ y, v.ctx q.port = some y ∧ y.readAhead = x.readAhead ++
        [{ block := some b, start := start, stop := stop, recStart := t0, recs := recs }] ∧ y.cursor = x.cursor) ∧
      Touches [.ctx, .arbiter] w v := by
  rcases content : s.readContent q (some b) t0 stop source true upsets with ⟨w, recs, damaged⟩
  obtain ⟨a, v, run, before, after⟩ := State.read_delivers running tenure upsets first content
  refine ⟨v, run, fun w' recs' damaged' same => ?_⟩
  obtain ⟨rfl, rfl, rfl⟩ : w = w' ∧ recs = recs' ∧ damaged = damaged' := by simpa using same
  have finds := s.readContent_touches q (some b) t0 stop source true upsets
  rw [content] at finds
  have ctx' : a.ctx q.port = some x := by rw [before.get .ctx rfl, finds.get .ctx rfl, ctx]
  obtain ⟨⟨y, here, ahead, cursor⟩, delivers⟩ := State.deliver_waiting ctx' plays playing due
    { block := some b, start := start, stop := stop, recStart := t0, recs := recs } damaged
  exact ⟨⟨y, by rw [after.get .ctx rfl, here], ahead, cursor⟩, .seq before (.seq (ps := [.ctx, .arbiter]) delivers after)⟩

/-! ### The frames of an export -/

/-- A frame of a take at a time lies above a port's clearance (R123). -/
def State.hides (s : State) (p : PortNo) (take time : Nat) : Prop := (s.link p).clearance < s.levelOf take time

theorem State.hides_of_touches {ps : List Part} (touched : Touches ps s v) (p : PortNo)
    (link : ps.contains .link = false := by rfl) (cues : ps.contains .cues = false := by rfl) :
    v.hides p = s.hides p ∧ v.levelOf = s.levelOf := by
  have levels : v.levelOf = s.levelOf := funext fun n => funext fun c =>
    State.levelOf_of_cueLists (touched.get .cues cues) n c
  exact ⟨by unfold State.hides; rw [levels, touched.link link p], levels⟩

/-- The records lie from a take time on. -/
theorem speechAt_ge {recs : List Rec} {start c : Nat} (found : (speechAt recs start c).isSome = true) : start ≤ c := by
  induction recs generalizing start with
  | nil => simp [speechAt] at found
  | cons rec recs ih =>
    cases rec with
    | speech b =>
      by_contra early
      rw [speechAt, if_pos (by omega)] at found
      simp at found
    | silence n =>
      by_contra early
      rw [speechAt, if_pos (by omega)] at found
      simp at found

/-- The next speech record at or after an even time (R127): none holds a time before it. -/
theorem nextSpeech_spec {recs : List Rec} {start c : Nat} (aligned : start % 2 = 0) (even : c % 2 = 0) :
    match nextSpeech recs start c with
    | some m => m % 2 = 0 ∧ c ≤ m ∧ (speechAt recs start m).isSome = true ∧
        ∀ d, c ≤ d → d < m → speechAt recs start d = none
    | none => ∀ d, c ≤ d → speechAt recs start d = none := by
  induction recs generalizing start with
  | nil => exact fun _ _ => rfl
  | cons rec recs ih =>
    cases rec with
    | speech b =>
      by_cases ahead : c ≤ start
      · rw [nextSpeech, if_pos ahead]
        refine ⟨aligned, ahead, by simp [speechAt], fun d _ before => ?_⟩
        rw [speechAt, if_pos before]
      · have past (d : Nat) (from_ : c ≤ d) : speechAt (.speech b :: recs) start d = speechAt recs (start + 2) d := by
          rw [speechAt, if_neg (by omega), if_neg (by omega)]
        have rest := ih (start := start + 2) (by omega)
        rw [nextSpeech, if_neg ahead]
        cases next : nextSpeech recs (start + 2) c with
        | none =>
          rw [next] at rest
          exact fun d from_ => (past d from_).trans (rest d from_)
        | some m =>
          rw [next] at rest
          obtain ⟨even', from', found, silent⟩ := rest
          exact ⟨even', from', by rw [past m from']; exact found, fun d from_ before =>
            (past d from_).trans (silent d from_ before)⟩
    | silence n =>
      have rest := ih (start := start + 2 * n) (by omega)
      have silent (d : Nat) (none_ : start + 2 * n ≤ d → speechAt recs (start + 2 * n) d = none) :
          speechAt (.silence n :: recs) start d = none := by
        rw [speechAt]
        split
        · rfl
        · exact none_ (by omega)
      rw [nextSpeech]
      cases next : nextSpeech recs (start + 2 * n) c with
      | none =>
        rw [next] at rest
        exact fun d from_ => silent d fun _ => rest d from_
      | some m =>
        rw [next] at rest
        obtain ⟨even', from', found, before'⟩ := rest
        refine ⟨even', from', ?_, fun d from_ before => silent d fun _ => before' d from_ before⟩
        have late := speechAt_ge found
        rw [speechAt, if_neg (by omega)]
        exact found

/-- Where the frames of an export end within a result (R127). -/
def Ctx.reach (x : Ctx) (r : ReadResult) : Nat := min r.stop x.endBound

/-- A silence of an export covers frame-times without speech, up to 250 of them, the limit, or the next speech record
(R127). -/
theorem Ctx.silenceRun_spec (aligned : r.recStart % 2 = 0) (even : x.cursor % 2 = 0) (stop : x.reach r % 2 = 0)
    (short : x.cursor < x.reach r) (silent : speechAt r.recs r.recStart x.cursor = none) :
    let n := x.silenceRun r
    1 ≤ n ∧ n ≤ 250 ∧ x.cursor + 2 * n ≤ x.reach r ∧
      (∀ i < n, speechAt r.recs r.recStart (x.cursor + 2 * i) = none) ∧
      (n = 250 ∨ x.cursor + 2 * n = x.reach r ∨ (speechAt r.recs r.recStart (x.cursor + 2 * n)).isSome = true) := by
  intro n
  have next := nextSpeech_spec (recs := r.recs) aligned even
  cases found : nextSpeech r.recs r.recStart x.cursor with
  | none =>
    rw [found] at next
    have length : n = max 1 (min 250 ((x.reach r - x.cursor) / 2)) := by
      unfold n Ctx.silenceRun
      rw [found]
      rfl
    exact ⟨by omega, by omega, by omega, fun i _ => next _ (by omega), by omega⟩
  | some m =>
    rw [found] at next
    obtain ⟨even', from', speech, before⟩ := next
    have length : n = max 1 (min 250 ((min m (x.reach r) - x.cursor) / 2)) := by
      unfold n Ctx.silenceRun
      rw [found]
      rfl
    have later : x.cursor < m := Nat.lt_of_le_of_ne from' fun same => by rw [← same, silent] at speech; simp at speech
    refine ⟨by omega, by omega, by omega, fun i within => before _ (by omega) (by omega), ?_⟩
    by_cases reaches : x.cursor + 2 * n = m
    · exact .inr (.inr (reaches ▸ speech))
    · omega

/-- The notice of a frame-time above the port, on entry to a restricted stretch (R123). -/
def State.silencedNotice (s : State) (p : PortNo) (take time : Nat) : PortNo × Frame :=
  (p, .notice (.restrictedSilenced take time (s.levelOf take time)))

/-- From `s` to `v` frame-times of the export `x` are marked: it becomes `y`, and only their notices go out. -/
structure Marks (p : PortNo) (times : List Nat) (s v : State) (x y : Ctx) : Prop where
  ctx : v.ctx p = some y
  apart : y = { x with stretch := y.stretch, silenced := y.silenced }
  silenced : y.silenced = true ↔ x.silenced = true ∨ ∃ c ∈ times, s.hides p x.take c
  out : ∃ told, v.out = s.out ++ told ∧
    ∀ e ∈ told, ∃ c ∈ times, s.hides p x.take c ∧ e = s.silencedNotice p x.take c
  touched : Touches [.ctx, .out] s v

theorem Marks.markFrame (ctx : s.ctx p = some x) (kind : x.kind = .exporting) (time : Nat) :
    ∃ y, Marks p [time] s (State.markFrame p s time) x y := by
  have touched := State.markFrame_touches p s time
  have here (c : Ctx) : (s.setCtx p (some c)).ctx p = some c := by simp
  have above : s.isAbove p x time = true ↔ s.hides p x.take time := by simp [State.isAbove, State.hides, kind]
  by_cases hidden : s.isAbove p x time = true
  · let y : Ctx := { x with stretch := true, silenced := x.silenced || x.kind = .exporting }
    let a := s.setCtx p (some y)
    have whole : State.markFrame p s time =
        if x.stretch then a else a.notify p (.restrictedSilenced x.take time (s.levelOf x.take time)) := by
      unfold State.markFrame
      rw [ctx]
      exact if_pos hidden
    have silenced : y.silenced = true ↔ x.silenced = true ∨ ∃ c ∈ [time], s.hides p x.take c := by
      simp [y, kind, above.1 hidden]
    by_cases stretch : x.stretch = true
    · rw [if_pos stretch] at whole
      exact ⟨y, by rw [whole]; exact here y, rfl, silenced, ⟨[], by rw [whole]; exact (List.append_nil _).symm, by simp⟩, touched⟩
    · rw [if_neg stretch] at whole
      refine ⟨y, by rw [whole, State.ctx_notify]; exact here y, rfl, silenced,
        ⟨_, by rw [whole, State.notify_out]; rfl, fun e sent => ⟨time, by simp, above.1 hidden, ?_⟩⟩, touched⟩
      unfold State.noticeTo at sent
      split at sent
      · exact List.mem_singleton.1 sent
      · simp at sent
  · have whole : State.markFrame p s time = s.setCtx p (some { x with stretch := false }) := by
      unfold State.markFrame
      rw [ctx]
      exact if_neg hidden
    have open_ : ¬ s.hides p x.take time := fun hides => hidden (above.2 hides)
    exact ⟨{ x with stretch := false }, by rw [whole]; exact here _, rfl, by simp [open_],
      ⟨[], by rw [whole]; exact (List.append_nil _).symm, by simp⟩, touched⟩

theorem Marks.trans {before after : List Nat} (first : Marks p before s v x y) (second : Marks p after v w y z) :
    Marks p (before ++ after) s w x z := by
  obtain ⟨hides, levels⟩ := State.hides_of_touches first.touched p
  have take : y.take = x.take := by rw [first.apart]
  obtain ⟨told, out, notices⟩ := first.out
  obtain ⟨told', out', notices'⟩ := second.out
  refine ⟨second.ctx, ?_, ?_, ⟨told ++ told', by rw [out', out, List.append_assoc], fun e sent => ?_⟩,
    first.touched.trans second.touched⟩
  · rw [second.apart, first.apart]
  · rw [second.silenced, first.silenced, hides, take, or_assoc]
    simp only [List.mem_append, or_and_right, exists_or]
  · rcases List.mem_append.1 sent with sent | sent
    · obtain ⟨c, listed, hidden, rfl⟩ := notices e sent
      exact ⟨c, List.mem_append_left _ listed, hidden, rfl⟩
    · obtain ⟨c, listed, hidden, rfl⟩ := notices' e sent
      rw [hides, take] at hidden
      exact ⟨c, List.mem_append_right _ listed, hidden, by unfold State.silencedNotice; rw [levels, take]⟩

theorem Marks.foldl (times : List Nat) (ctx : s.ctx p = some x) (kind : x.kind = .exporting) :
    ∃ y, Marks p times s (times.foldl (State.markFrame p) s) x y := by
  induction times generalizing s x with
  | nil => exact ⟨x, ctx, rfl, by simp, ⟨[], (List.append_nil _).symm, by simp⟩, .refl _ _⟩
  | cons time times ih =>
    obtain ⟨y, marks⟩ := Marks.markFrame ctx kind time
    obtain ⟨z, rest⟩ := ih marks.ctx (by rw [marks.apart]; exact kind)
    exact ⟨z, marks.trans rest⟩

/-- The frame of an export at its cursor, and the frame-times that it covers (R127). -/
def State.exportFrame (s : State) (p : PortNo) (x : Ctx) (r : ReadResult) : Nat × Frame :=
  match speechAt r.recs r.recStart x.cursor with
  | some b => (1, if s.isAbove p x x.cursor then .exportSilence x.take x.cursor 1 else .exportSpeech x.take x.cursor b)
  | none => (x.silenceRun r, .exportSilence x.take x.cursor (x.silenceRun r))

/-- The frame-times from a time on. -/
def frameTimes (c n : Nat) : List Nat := (List.range n).map fun i => c + 2 * i

theorem mem_frameTimes {c d : Nat} (even : c % 2 = 0) : d ∈ frameTimes c n ↔ c ≤ d ∧ d < c + 2 * n ∧ d % 2 = 0 := by
  simp only [frameTimes, List.mem_map, List.mem_range]
  constructor
  · rintro ⟨i, within, rfl⟩; omega
  · rintro ⟨from_, before, even'⟩; exact ⟨(d - c) / 2, by omega, by omega⟩

theorem State.sendExportFrame_eq (s : State) (p : PortNo) (x : Ctx) (r : ReadResult) :
    s.sendExportFrame p x r = (((frameTimes x.cursor (s.exportFrame p x r).1).foldl (State.markFrame p) s).emit p
      (s.exportFrame p x r).2).updCtx p fun c => c.advance (2 * (s.exportFrame p x r).1) := by
  unfold State.sendExportFrame State.exportFrame frameTimes
  cases speechAt r.recs r.recStart x.cursor with
  | some b => rfl
  | none => simp only [List.foldl_map]

/-- From `s` to `v` the export `x` has gone on to `y` within one read result, with these frames. -/
structure ExportGoes (p : PortNo) (r : ReadResult) (frames : List Frame) (s v : State) (x y : Ctx) : Prop where
  ctx : v.ctx p = some y
  apart : y = { x with cursor := y.cursor, readAhead := y.readAhead, stretch := y.stretch, silenced := y.silenced }
  forward : x.cursor ≤ y.cursor
  silenced : y.silenced = true ↔ x.silenced = true ∨
    ∃ c, x.cursor ≤ c ∧ c < y.cursor ∧ c % 2 = 0 ∧ s.hides p x.take c
  run : ∀ d rest, ExportRun r.recs r.recStart x.take (x.reach r) (s.hides p x.take) y.cursor d rest →
    ExportRun r.recs r.recStart x.take (x.reach r) (s.hides p x.take) x.cursor d (frames ++ rest)
  out : ∃ sent, v.out = s.out ++ sent ∧ sent.filter (fun e => e.2.isExport) = frames.map (fun f => (p, f)) ∧
    ∀ e ∈ sent, e.2.isExport = true ∨
      ∃ c, s.hides p x.take c ∧ x.cursor ≤ c ∧ c < y.cursor ∧ e = s.silencedNotice p x.take c
  touched : Touches playParts s v

theorem ExportGoes.refl (ctx : s.ctx p = some x) (r : ReadResult) : ExportGoes p r [] s s x x where
  ctx := ctx
  apart := rfl
  forward := le_rfl
  silenced := by simp only [iff_self_or]; rintro ⟨c, from_, before, -⟩; omega
  run := fun _ _ => id
  out := ⟨[], (List.append_nil _).symm, rfl, by simp⟩
  touched := .refl _ _

theorem ExportGoes.trans {frames more : List Frame} (first : ExportGoes p r frames s v x y)
    (second : ExportGoes p r more v w y z) : ExportGoes p r (frames ++ more) s w x z := by
  obtain ⟨hides, levels⟩ := State.hides_of_touches first.touched p
  have take : y.take = x.take := by rw [first.apart]
  have bound : y.reach r = x.reach r := by rw [first.apart]; rfl
  obtain ⟨sent, out, exports, notices⟩ := first.out
  obtain ⟨sent', out', exports', notices'⟩ := second.out
  have there := first.forward
  have on := second.forward
  refine ⟨second.ctx, ?_, there.trans on, ?_, fun d rest run => ?_,
    ⟨sent ++ sent', by rw [out', out, List.append_assoc], ?_, fun e among => ?_⟩, first.touched.trans second.touched⟩
  · rw [second.apart, first.apart]
  · rw [second.silenced, first.silenced, hides, take, or_assoc]
    refine or_congr_right ⟨?_, fun ⟨c, from_, before, even, hidden⟩ => ?_⟩
    · rintro (⟨c, from_, before, rest⟩ | ⟨c, from_, before, rest⟩)
      · exact ⟨c, from_, by omega, rest⟩
      · exact ⟨c, by omega, before, rest⟩
    · by_cases early : c < y.cursor
      · exact .inl ⟨c, from_, early, even, hidden⟩
      · exact .inr ⟨c, by omega, before, even, hidden⟩
  · rw [List.append_assoc]
    refine first.run d _ ?_
    have rest_ := second.run d rest
    rw [hides, take, bound] at rest_
    exact rest_ run
  · rw [List.filter_append, exports, exports', List.map_append]
  · rcases List.mem_append.1 among with among | among
    · refine (notices e among).imp_right ?_
      rintro ⟨c, hidden, from_, before, rfl⟩
      exact ⟨c, hidden, from_, by omega, rfl⟩
    · refine (notices' e among).imp_right ?_
      rintro ⟨c, hidden, from_, before, rfl⟩
      rw [hides, take] at hidden
      exact ⟨c, hidden, by omega, before, by unfold State.silencedNotice; rw [levels, take]⟩

/-- An export that stands within a read result that it holds (R121, R127). -/
structure ExportAt (s : State) (p : PortNo) (r : ReadResult) (x : Ctx) : Prop where
  ctx : s.ctx p = some x
  kind : x.kind = .exporting
  attached : (s.link p).isAttached = true
  ahead : x.readAhead = if x.cursor < r.stop then [r] else []
  begun : r.start ≤ x.cursor
  within : x.cursor ≤ x.reach r
  even : x.cursor % 2 = 0
  aligned : r.recStart % 2 = 0
  stop : x.reach r % 2 = 0

namespace ExportAt

/-- The frame at the cursor goes on the run (R127). -/
theorem exportFrame_run (at_ : ExportAt s p r x) (short : x.cursor < x.reach r) :
    let n := (s.exportFrame p x r).1
    1 ≤ n ∧ x.cursor + 2 * n ≤ x.reach r ∧ (s.exportFrame p x r).2.isExport = true ∧ ∀ d rest,
      ExportRun r.recs r.recStart x.take (x.reach r) (s.hides p x.take) (x.cursor + 2 * n) d rest →
      ExportRun r.recs r.recStart x.take (x.reach r) (s.hides p x.take) x.cursor d ((s.exportFrame p x r).2 :: rest) := by
  intro n
  have even := at_.even
  have stop := at_.stop
  have above : s.isAbove p x x.cursor = true ↔ s.hides p x.take x.cursor := by
    simp [State.isAbove, State.hides, at_.kind]
  cases speech : speechAt r.recs r.recStart x.cursor with
  | some b =>
    have frame : s.exportFrame p x r = (1, if s.isAbove p x x.cursor then .exportSilence x.take x.cursor 1
        else .exportSpeech x.take x.cursor b) := by
      rw [State.exportFrame, speech]
    have one : n = 1 := congrArg Prod.fst frame
    rw [one, frame]
    refine ⟨le_rfl, by omega, by dsimp only; split <;> rfl, fun d rest run => ?_⟩
    by_cases hidden : s.isAbove p x x.cursor = true
    · rw [if_pos hidden]
      exact .silenced _ _ b _ speech (above.1 hidden) run
    · rw [if_neg hidden]
      exact .speech _ _ b _ speech (fun hides => hidden (above.2 hides)) run
  | none =>
    have frame : s.exportFrame p x r = (x.silenceRun r, .exportSilence x.take x.cursor (x.silenceRun r)) := by
      rw [State.exportFrame, speech]
    have length : n = x.silenceRun r := congrArg Prod.fst frame
    obtain ⟨least, most, limit, silent, ends⟩ := Ctx.silenceRun_spec at_.aligned even stop short speech
    rw [length, frame]
    exact ⟨least, limit, rfl, fun d rest run => .silence _ _ _ _ least most limit silent ends run⟩

/-- One frame of an export (R123, R127). -/
theorem sendExportFrame (at_ : ExportAt s p r x) (short : x.cursor < x.reach r) :
    ∃ y, x.cursor < y.cursor ∧ ExportAt (s.sendExportFrame p x r) p r y ∧
      ExportGoes p r [(s.exportFrame p x r).2] s (s.sendExportFrame p x r) x y := by
  obtain ⟨least, limit, exports, run⟩ := at_.exportFrame_run short
  have touched := s.sendExportFrame_touches p x r
  have even := at_.even
  rw [State.sendExportFrame_eq] at touched ⊢
  generalize s.exportFrame p x r = step at *
  obtain ⟨n, frame⟩ := step
  dsimp only at *
  obtain ⟨y, marks⟩ := Marks.foldl (frameTimes x.cursor n) at_.ctx at_.kind
  generalize (frameTimes x.cursor n).foldl (State.markFrame p) s = m at *
  let z := y.advance (2 * n)
  let e := m.emit p frame
  let v := e.updCtx p fun c => c.advance (2 * n)
  have attached : (m.link p).isAttached = true := by rw [marks.touched.link rfl]; exact at_.attached
  have sent : e.out = m.out ++ [(p, frame)] := by
    rw [State.emit_out, State.sentTo, if_pos (Link.takesFrames_of_isAttached attached)]
  have next : v = e.setCtx p (some z) := by
    change e.updCtx p _ = _
    rw [State.updCtx, show e.ctx p = some y from (State.ctx_emit _ _ _ _).trans marks.ctx]
  have ctx : v.ctx p = some z := by rw [next]; simp
  have cursor : z.cursor = x.cursor + 2 * n := by
    change y.cursor + 2 * n = _
    rw [marks.apart]
  have bound : z.reach r = x.reach r := by
    change y.reach r = _
    rw [marks.apart]; rfl
  have ahead : z.readAhead = if z.cursor < r.stop then [r] else [] := by
    have stop : x.cursor < r.stop := by unfold Ctx.reach at short; omega
    have held : y.readAhead = [r] := by
      rw [marks.apart]
      exact at_.ahead.trans (if_pos stop)
    change y.readAhead.filter (fun r => y.cursor + 2 * n < r.stop) = if y.cursor + 2 * n < r.stop then [r] else []
    rw [held]
    by_cases more : y.cursor + 2 * n < r.stop <;> simp [more]
  have link : (v.link p).isAttached = true := by
    rw [touched.link rfl]; exact at_.attached
  have kind : z.kind = .exporting := by
    change y.kind = _
    rw [marks.apart]; exact at_.kind
  have begun := at_.begun
  refine ⟨z, by omega, ⟨ctx, kind, link, ahead, by omega, by omega, by omega, at_.aligned, bound ▸ at_.stop⟩,
    ctx, ?_, by omega, ?_, fun d rest goes => run d rest (cursor ▸ goes), ?_, touched⟩
  · exact congrArg (fun c : Ctx => { c with cursor := z.cursor, readAhead := z.readAhead }) marks.apart
  · refine marks.silenced.trans (or_congr_right (exists_congr fun c => ?_))
    rw [mem_frameTimes even, cursor, and_assoc, and_assoc]
  · obtain ⟨told, out, notices⟩ := marks.out
    have silent : told.filter (fun e => e.2.isExport) = [] := List.filter_eq_nil_iff.2 fun e among => by
      obtain ⟨c, -, -, rfl⟩ := notices e among
      simp [State.silencedNotice, Frame.isExport]
    refine ⟨told ++ [(p, frame)], ?_, ?_, fun e among => ?_⟩
    · calc v.out = e.out := by rw [next]; rfl
        _ = s.out ++ (told ++ [(p, frame)]) := by rw [sent, out, List.append_assoc]
    · rw [List.filter_append, silent, List.nil_append]
      simp [exports]
    · rcases List.mem_append.1 among with among | among
      · obtain ⟨c, listed, hidden, rfl⟩ := notices e among
        obtain ⟨from_, before, -⟩ := (mem_frameTimes even).1 listed
        exact .inr ⟨c, hidden, from_, by omega, rfl⟩
      · exact .inl (by rw [List.mem_singleton.1 among]; exact exports)

/-- A running export sends frames up to the end of the result or its own (R127). -/
theorem runExport (at_ : ExportAt s p r x) (fuel : Nat) (enough : x.reach r - x.cursor < fuel) :
    ∃ w y left frames, State.runExport p fuel s = State.runExport p (left + 1) w ∧ ExportAt w p r y ∧
      y.cursor = x.reach r ∧ ExportGoes p r frames s w x y := by
  induction fuel generalizing s x with
  | zero => omega
  | succ fuel ih =>
    by_cases short : x.cursor < x.reach r
    · obtain ⟨y, forward, next, goes⟩ := at_.sendExportFrame short
      have bound : y.reach r = x.reach r := by rw [goes.apart]; rfl
      obtain ⟨w, z, left, frames, same, there, cursor, more⟩ := ih next (by omega)
      refine ⟨w, z, left, _, ?_, there, cursor.trans bound, goes.trans more⟩
      rw [← same, State.runExport, at_.ctx]
      have running : ¬ x.endBound ≤ x.cursor := by unfold Ctx.reach at short; omega
      have stop : x.cursor < r.stop := by unfold Ctx.reach at short; omega
      have covers : x.covering = some r := by
        rw [Ctx.covering, at_.ahead, if_pos stop]
        simp [at_.begun, stop]
      dsimp only
      rw [if_neg running, covers]
    · exact ⟨s, x, fuel, [], rfl, at_, by have := at_.within; omega, .refl at_.ctx r⟩

end ExportAt

/-! ### A read completes for an export -/

/-- What a completed read that is delivered leaves of the state that the export goes on from: its records, how many of
its blocks it found damaged, and the notices of it (R46, R52 to R54). -/
structure ReadFinds (s w : State) (told : List (PortNo × Frame)) (t u : Take) (n : Nat) : Prop where
  take : w.take? n = some u
  readers : u.readers = t.readers
  exported : u.exported = t.exported
  out : w.out = s.out ++ told
  touched : Touches damageParts s w

theorem ReadFinds.refl (found : s.take? n = some t) : ReadFinds s s [] t t n :=
  ⟨found, rfl, rfl, (List.append_nil _).symm, .refl _ _⟩

theorem ReadFinds.mismatch {d : Stored} {e : DirEntry} {b : Nat} (found : s.take? n = some t)
    (listed : Table.find s.directory b = some e) (p : PortNo) (start stop : Nat) :
    ∃ u, ReadFinds s (((s.withUpsets b d).markDamaged b e.owner).tellDamage p b e.owner start stop true)
      (s.noticeTo p (.damagedBlock e.owner start stop) ++
        s.noticesTo ((s.portsOf [.desk]).filter (· ≠ p)) (.damagedBlock e.owner start stop)) t u n := by
  let a := s.withUpsets b d
  let m := a.markDamaged b e.owner
  have upsets := s.withUpsets_touches b d
  have marks := a.markDamaged_touches b e.owner
  have tells := m.tellDamage_touches p b e.owner start stop true
  have links (q : PortNo) : m.link q = s.link q := (marks.link rfl q).trans (upsets.link rfl q)
  have told_links (q : PortNo) : (m.tellPlayer p b e.owner start stop).link q = s.link q :=
    ((m.tellPlayer_touches p b e.owner start stop).link rfl q).trans (links q)
  have left := (State.markDamaged_leaves (s := a) listed e.owner).2 n t found
  refine ⟨_, (tells.take? rfl n).trans left, by split <;> rfl, by split <;> rfl, ?_,
    .seq upsets (.seq (ps := damageParts) marks tells)⟩
  have out : (m.tellPlayer p b e.owner start stop).out = s.out ++ s.noticeTo p (.damagedBlock e.owner start stop) := by
    refine (State.notify_out m p _).trans ?_
    rw [State.noticeTo_congr links, marks.get .out rfl, upsets.get .out rfl]
  refine (State.notifyEach_out (m.tellPlayer p b e.owner start stop) _ _).trans ?_
  rw [out, State.noticesTo_congr told_links, State.portsOf_congr links, List.append_assoc]
  simp

theorem ReadFinds.damaged {q : ReadReq} {b : Nat} (found : s.take? n = some t) (start stop : Nat) :
    ReadFinds s (s.readDamaged q b start stop true) (if (s.port q.port).lastDamage = some b then []
      else s.noticeTo q.port (.damagedBlock q.take start stop)) t t n := by
  have touched := s.readDamaged_touches q b start stop true
  refine ⟨(touched.take? rfl n).trans found, rfl, rfl, ?_, touched.mono rfl⟩
  unfold State.readDamaged
  by_cases told : (s.port q.port).lastDamage = some b
  · simp [told]
  · rw [if_pos (by simp [told]), if_neg told]
    exact State.notify_out _ _ _

/-- An export with a result that joins its read-ahead (R121). -/
def Ctx.withResult (x : Ctx) (r : ReadResult) (damaged : Bool) : Ctx :=
  { x with outstanding := false, readAhead := x.readAhead ++ [r]
           damagedCount := x.damagedCount + (if damaged then 1 else 0) }

theorem State.deliver_exporting (ctx : s.ctx p = some x) (kind : x.kind = .exporting) (r : ReadResult) (damaged : Bool) :
    s.deliver p r damaged =
      State.runExport p (x.endBound - x.cursor + 1) (s.setCtx p (some (x.withResult r damaged))) := by
  have ctx' : (s.setCtx p (some (x.withResult r damaged))).ctx p = some (x.withResult r damaged) := by simp
  have goes : (s.setCtx p (some (x.withResult r damaged))).continueExport p =
      State.runExport p (x.endBound - x.cursor + 1) (s.setCtx p (some (x.withResult r damaged))) := by
    unfold State.continueExport
    rw [ctx']
    rfl
  refine Eq.trans ?_ goes
  unfold State.deliver
  rw [ctx]
  dsimp only
  split
  · rfl
  · next typist => rw [kind] at typist; cases typist
  · next reader => rw [kind] at reader; cases reader

/-- At the end of its result an export asks for the next read (R121, R127). -/
theorem ExportAt.asks {left : Nat} (at_ : ExportAt s p r x) (result : x.cursor = r.stop) (more : x.cursor < x.endBound)
    (quiet : x.outstanding = false) (moving : x.mode = .playing) :
    let v := State.runExport p (left + 1) s
    v.ctx p = some { x with outstanding := true } ∧ x.readAhead = [] ∧ v.out = s.out := by
  intro v
  have empty : x.readAhead = [] := at_.ahead.trans (if_neg (by omega))
  have uncovered : x.covering = none := by rw [Ctx.covering, empty]; rfl
  have wants : x.wantsRead = true := by
    simp [Ctx.wantsRead, Ctx.readTime, empty, quiet, moving, more, Config.readAheadDepth]
  have asks : v = s.askReads p := by
    change State.runExport p (left + 1) s = _
    rw [State.runExport, at_.ctx]
    dsimp only
    rw [if_neg (by omega), uncovered]
  rw [asks]
  refine ⟨?_, empty, (s.askReads_touches p).get .out rfl⟩
  rw [State.ctx_askReads, if_pos rfl, at_.ctx, Option.map_some, wants, Bool.or_true]

/-- At its end bound an export ends (R128). -/
theorem ExportAt.completes {left : Nat} (at_ : ExportAt s p r x) (ended : x.endBound ≤ x.cursor) :
    State.runExport p (left + 1) s = s.completeExport p x := by
  rw [State.runExport, at_.ctx]
  exact if_pos ended

/-- What a result that joins its read-ahead lets an export send (R123, R127). -/
theorem State.deliver_exports (ctx : s.ctx p = some x) (kind : x.kind = .exporting) (empty : x.readAhead = [])
    (attached : (s.link p).isAttached = true) (begun : r.start ≤ x.cursor) (short : x.cursor < r.stop)
    (running : x.cursor < x.endBound) (even : x.cursor % 2 = 0) (stop : r.stop % 2 = 0) (bound : x.endBound % 2 = 0)
    (aligned : r.recStart % 2 = 0) (damaged : Bool) :
    ∃ w y left frames, s.deliver p r damaged = State.runExport p (left + 1) w ∧ ExportAt w p r y ∧
      y.cursor = x.reach r ∧
      ExportGoes p r frames (s.setCtx p (some (x.withResult r damaged))) w (x.withResult r damaged) y := by
  have at_ : ExportAt (s.setCtx p (some (x.withResult r damaged))) p r (x.withResult r damaged) :=
    { ctx := by simp
      kind := kind
      attached := by rw [State.link_setCtx]; exact attached
      ahead := by
        have joined : (x.withResult r damaged).readAhead = [r] := by rw [Ctx.withResult, empty]; rfl
        exact joined.trans (if_pos short).symm
      begun := begun
      within := Nat.le_of_lt (Nat.lt_min.2 ⟨short, running⟩)
      even := even
      aligned := aligned
      stop := by
        have least : (x.withResult r damaged).reach r = min r.stop x.endBound := rfl
        omega }
  obtain ⟨w, y, left, frames, same, there, cursor, goes⟩ := at_.runExport (x.endBound - x.cursor + 1) (by
    have least : (x.withResult r damaged).reach r = min r.stop x.endBound := rfl
    have from_ : (x.withResult r damaged).cursor = x.cursor := rfl
    omega)
  exact ⟨w, y, left, frames, (State.deliver_exporting ctx kind r damaged).trans same, there, cursor, goes⟩

/-- Settles O57. -/
theorem readCompletionDeliversTheResult : Obligations.ReadCompletionDeliversTheResult := by
  intro s upsets first r b start stop t0 source running
  refine ⟨fun tenure x ctx plays playing due => ?_, fun recs tenure => ?_, ?_⟩
  · obtain ⟨v, run, leaves⟩ := State.read_completes_playing running tenure ctx plays playing due upsets first
    refine ⟨v, run, fun recs buffered => leaves s recs false (by rw [buffered]; rfl),
      fun d e of_store stored listed => ⟨?_, fun sound => ?_, fun mismatch => ?_⟩, fun damaged => ?_⟩
    · subst of_store
      by_cases sound : e.check = some (crc (d.upset upsets).bytes)
      · obtain ⟨-, after⟩ := leaves _ _ _ (State.readContent_sound r t0 stop upsets stored listed sound)
        rw [after.get .store rfl]
        exact TableLaws.find_put_self _ _
      · obtain ⟨-, after⟩ := leaves _ _ _ (State.readContent_mismatch r t0 stop upsets stored listed sound)
        rw [after.get .store rfl]
        exact (State.mismatch_leaves listed r.port t0 stop).1
    · subst of_store
      obtain ⟨delivered, after⟩ := leaves _ _ _ (State.readContent_sound r t0 stop upsets stored listed sound)
      refine ⟨delivered, (after.get .directory rfl).trans ((s.withUpsets_touches b _).get .directory rfl),
        fun written => ?_, .seq (s.withUpsets_touches b _) after⟩
      have content : (d.upset upsets).content = d.recs := by
        have same : d.upset upsets = { recs := d.recs, bytes := recsBytes d.recs } := by
          rw [← written, ← d.recs_upset upsets]
        rw [same, Stored.content_written]
      rw [content] at delivered
      exact delivered
    · subst of_store
      obtain ⟨delivered, after⟩ := leaves _ _ _ (State.readContent_mismatch r t0 stop upsets stored listed mismatch)
      obtain ⟨-, entry, takes, noted, finds⟩ := State.mismatch_leaves (d := d.upset upsets) listed r.port t0 stop
      refine ⟨delivered, ?_, fun t found => ?_, ?_, .seq finds after⟩
      · rw [after.get .directory rfl]; exact entry
      · rw [after.take? rfl]; exact takes t found
      · rw [after.get .damage rfl]; exact noted
    · subst damaged
      obtain ⟨delivered, after⟩ := leaves _ _ _ (State.readContent_damaged r t0 stop upsets s b)
      refine ⟨delivered, ?_, .seq (s.readDamaged_touches r b t0 stop true) after⟩
      rw [after.get .damage rfl]
      exact s.lastDamage_readDamaged r b t0 stop
  · refine ⟨s.endTenure.grant, ?_, .seq s.endTenure_touches (State.grant_touches _)⟩
    change execReadTenureComplete upsets first s = _
    rw [execReadTenureComplete, State.running_eq running, tenure]
    rfl
  · intro block x t tenure ctx kind playing empty attached found begun short inside even stop_even bound aligned p bytes
      delivers above reach silenced recs damaged told delivered
    have content : ∃ w harmed u, s.readContent r block t0 stop source true upsets = (w, recs, harmed) ∧
        damaged = (if harmed then 1 else 0) ∧ ReadFinds s w told t u x.take := by
      rcases delivered with ⟨rfl, rfl, rfl⟩ | ⟨rfl, rfl, rfl, rfl⟩ | ⟨c, d, e, rfl, rfl, stored, listed, read⟩ |
        ⟨c, rfl, rfl, rfl, rfl, rfl⟩
      · exact ⟨s, false, t, rfl, rfl, .refl found⟩
      · exact ⟨s, false, t, rfl, rfl, .refl found⟩
      · have whole : bytes c = (d.upset upsets).bytes := by simp [bytes, stored]
        rw [whole] at read
        by_cases sound : e.check = some (crc (d.upset upsets).bytes)
        · rw [if_pos sound] at read
          obtain ⟨rfl, rfl, rfl⟩ := read
          have touched := s.withUpsets_touches c (d.upset upsets)
          exact ⟨_, false, t, State.readContent_sound r t0 stop upsets stored listed sound, rfl,
            (touched.take? rfl _).trans found, rfl, rfl, (List.append_nil _).symm, touched.mono rfl⟩
        · rw [if_neg sound] at read
          obtain ⟨rfl, rfl, rfl⟩ := read
          obtain ⟨u, finds⟩ := ReadFinds.mismatch (d := d.upset upsets) found listed p t0 stop
          exact ⟨_, true, u, State.readContent_mismatch r t0 stop upsets stored listed sound, rfl, finds⟩
      · exact ⟨_, true, t, State.readContent_damaged r t0 stop upsets s c, rfl, .damaged found t0 stop⟩
    obtain ⟨w, harmed, u, content, count, finds⟩ := content
    obtain ⟨a, v, run, before, after⟩ := State.read_delivers running tenure upsets first content
    let result : ReadResult := { block := block, start := start, stop := stop, recStart := t0, recs := recs }
    let z := x.withResult result harmed
    let g := a.setCtx p (some z)
    have ctx' : a.ctx p = some x := by rw [before.get .ctx rfl, finds.touched.get .ctx rfl, ctx]
    have link : a.link p = s.link p := (before.link rfl p).trans (finds.touched.link rfl p)
    obtain ⟨y_state, y, left, frames, delivery, at_, cursor, goes⟩ := State.deliver_exports (r := result) ctx' kind empty
      (by rw [link]; exact attached) begun short inside even stop_even bound aligned harmed
    have joins : Touches [.ctx] a g := State.reCtx_touches ctx' z rfl
    have comes : Touches (.ctx :: .arbiter :: damageParts) s g :=
      .seq finds.touched (.seq (ps := .ctx :: .arbiter :: damageParts) before joins)
    obtain ⟨hides, levels⟩ := State.hides_of_touches comes p
    obtain ⟨sent, out, exports, notices⟩ := goes.out
    have began : g.out = s.out ++ told := by rw [joins.get .out rfl, before.get .out rfl, finds.out]
    have frames_run := goes.run reach [] (by rw [cursor]; exact .done _)
    have marked : y.silenced = true ↔ silenced := by
      refine goes.silenced.trans ?_
      rw [hides, cursor]
      refine or_congr_right (exists_congr fun c => ?_)
      exact Iff.rfl
    have count' : y.damagedCount = x.damagedCount + damaged := by rw [goes.apart, count]; rfl
    rw [List.append_nil, hides] at frames_run
    rw [hides] at notices
    refine ⟨v, sent, frames, run, frames_run, exports, fun e among => ?_, fun more => ?_, fun ends => ?_⟩
    · refine (notices e among).imp_right ?_
      rintro ⟨c, hidden, from_, until_, rfl⟩
      refine ⟨c, hidden, from_, ?_, ?_⟩
      · rw [cursor] at until_; exact until_
      · unfold State.silencedNotice
        rw [levels]
        rfl
    · have there : y.cursor = stop := cursor.trans (Nat.min_eq_left (Nat.le_of_lt more))
      have unended : y.endBound = x.endBound := by rw [goes.apart]; rfl
      obtain ⟨ctx_asked, empty', told'⟩ := at_.asks (left := left) there (by omega) (by rw [goes.apart]; rfl)
        (by rw [goes.apart]; exact playing)
      rw [delivery] at after
      refine ⟨?_, { y with outstanding := true }, ?_, there, empty', rfl, count', marked⟩
      · rw [after.get .out rfl, told', out, began]
      · rw [after.get .ctx rfl, ctx_asked]
    · have there : y.cursor = x.endBound := cursor.trans (Nat.min_eq_right ends)
      have unended : y.endBound = x.endBound := by rw [goes.apart]; rfl
      have take : y.take = x.take := by rw [goes.apart]; rfl
      have completes := at_.completes (left := left) (by omega)
      rw [delivery, completes] at after
      have found' : y_state.take? y.take = some u := by
        rw [take, goes.touched.take? rfl, joins.take? rfl, before.take? rfl, finds.take]
      obtain ⟨gone, left', told', touched⟩ := State.completeExport_leaves at_.ctx found'
      refine ⟨by rw [after.get .ctx rfl, gone], y.silenced, { u with
        exported := u.exported || (y.closedAtBegin && !y.silenced), readers := u.readers - 1 }, marked, ?_, ?_, ?_, ?_⟩
      · rw [after.get .out rfl, told', out, began, take, unended, count']
        rw [State.noticeTo_congr (v := y_state) (s := s) fun q => (goes.touched.link rfl q).trans (comes.link rfl q)]
      · rw [after.take? rfl, ← take]; exact left'
      · exact congrArg (· - 1) finds.readers
      · have closed : y.closedAtBegin = x.closedAtBegin := by rw [goes.apart]; rfl
        change (u.exported || (y.closedAtBegin && !y.silenced)) = _
        rw [finds.exported, closed]

end

end Sys2Proof.Machine

/-!
PROOFS. The split engine (Chapter 4): the price of a chunk and its making, the cut point, the cut test and the service
of the deferral list.
-/

namespace Sys2Proof.Machine

set_option Elab.async false

section
variable {s v w g : State} {n : Nat} {t u : Take} {c d : Chunk}

/-! ### Prices -/

/-- The estimate is the least number of seconds that is not short (R71). -/
theorem estimateOf_spec (b q : Nat) : b * q ≤ 400 * estimateOf b q ∧ 400 * estimateOf b q < b * q + 400 := by
  unfold estimateOf
  omega

theorem estimateOf_eq_zero (b q : Nat) : b * q = 0 ↔ estimateOf b q = 0 := by
  unfold estimateOf
  omega

theorem highest_le {levels : List Nat} {l : Nat} (listed : l ∈ levels) : l ≤ highest levels := by
  induction levels with
  | nil => simp at listed
  | cons m levels ih =>
    change l ≤ max m (highest levels)
    rcases List.mem_cons.1 listed with rfl | listed
    · exact le_max_left _ _
    · exact (ih listed).trans (le_max_right _ _)

theorem highest_mem (levels : List Nat) : highest levels = 0 ∨ highest levels ∈ levels := by
  induction levels with
  | nil => exact .inl rfl
  | cons m levels ih =>
    change max m (highest levels) = 0 ∨ max m (highest levels) ∈ m :: levels
    rcases max_cases m (highest levels) with ⟨most, -⟩ | ⟨most, -⟩ <;> rw [most]
    · exact .inr List.mem_cons_self
    · exact ih.imp_right (List.mem_cons_of_mem m)

/-- The required clearance is the least that meets the floor and every level in the play span (R72). -/
theorem Take.requiredOver_spec (t : Take) (start stop : Nat) :
    let inPlay : Span → Prop := fun x => x ∈ t.restrictedSpans ∧ max x.start start < min x.stop stop
    t.action.floor ≤ t.requiredOver start stop ∧ (∀ x, inPlay x → x.level ≤ t.requiredOver start stop) ∧
      (t.requiredOver start stop = t.action.floor ∨ ∃ x, inPlay x ∧ x.level = t.requiredOver start stop) := by
  intro inPlay
  let levels := (t.restrictedSpans.filter fun x => overlaps x.start x.stop start stop).map (·.level)
  have listed (l : Nat) : l ∈ levels ↔ ∃ x, inPlay x ∧ x.level = l := by
    simp only [levels, inPlay, List.mem_map, List.mem_filter, overlaps, decide_eq_true_eq]
  have required : t.requiredOver start stop = max t.action.floor (highest levels) := rfl
  rw [required]
  refine ⟨le_max_left _ _, fun x played => (highest_le ((listed _).2 ⟨x, played, rfl⟩)).trans (le_max_right _ _), ?_⟩
  rcases max_cases t.action.floor (highest levels) with ⟨most, -⟩ | ⟨most, above⟩ <;> rw [most]
  · exact .inl rfl
  · exact .inr ((listed _).1 ((highest_mem levels).resolve_left (by omega)))

/-! ### A chunk is made -/

theorem State.addChunk_touches (s : State) (c : Chunk) :
    Touches [.chunks, .chunkSize] s { s with chunks := s.chunks ++ [c] } := by
  intro part outside
  cases part <;> first
    | rfl
    | exact id
    | exact fun _ => rfl
    | exact ⟨[], by simp⟩
    | exact fun p c listed => .inr ⟨c, listed, rfl⟩
    | simp at outside

theorem State.nextArrival_touches (s : State) :
    Touches [.arrivalSeq, .arrivalTop] s { s with arrivalSeq := s.arrivalSeq + 1 } := by
  intro part outside
  cases part <;> first
    | rfl
    | exact id
    | exact fun _ => rfl
    | exact ⟨[], by simp⟩
    | exact fun p c listed => .inr ⟨c, listed, rfl⟩
    | simp at outside

/-- The making of a chunk, whatever the room for it (R64). -/
theorem State.makeChunk_leaves (found : s.take? t.id = some t) (start stop playStart : Nat) (final : Bool) :
    let c := s.newChunk t start stop playStart final
    let v := s.makeChunk t start stop playStart final
    TakeBecomes t.id s v { t with
      cursor := stop, nextOrdinal := t.nextOrdinal + 1, chunksMade := t.chunksMade + 1 } ∧
    v.arrivalSeq = s.arrivalSeq + 1 ∧ v.chunks = (s.createChunk c).chunks ∧ v.deferral = s.deferral ∧
    v.chunks.length = s.chunks.length + 1 ∧
    Touches ([.takes, .chunkSize, .arrivalSeq, .arrivalTop] ++ offerParts) s v := by
  intro c v
  let a : State := { s with chunks := s.chunks ++ [c] }
  let b := a.offerPass? c.pool
  let d : State := { b with arrivalSeq := b.arrivalSeq + 1 }
  have joins : Touches [.chunks, .chunkSize] s a := s.addChunk_touches c
  have passes : Touches offerParts a b := State.offerPassOf_touches a c.pool
  have counts : Touches [.arrivalSeq, .arrivalTop] b d := b.nextArrival_touches
  have stands : d.take? t.id = some t := by
    rw [counts.take? rfl, passes.take? rfl, joins.take? rfl, found]
  have marks : Touches [.takes] d v := State.countTake_touches _ _ _
  have comes : Touches (.arrivalSeq :: .arrivalTop :: .chunkSize :: offerParts) s d :=
    .seq joins (.seq (ps := .arrivalSeq :: .arrivalTop :: .chunkSize :: offerParts) passes counts)
  refine ⟨(TakeBecomes.of_touches found comes).trans (.updTake stands fun t => { t with
    cursor := stop, nextOrdinal := t.nextOrdinal + 1, chunksMade := t.chunksMade + 1 }), ?_, rfl, ?_, ?_, .seq comes marks⟩
  · change b.arrivalSeq + 1 = _
    rw [passes.get .arrivalSeq rfl, joins.get .arrivalSeq rfl]
  · rw [marks.get .deferral rfl, comes.get .deferral rfl]
  · change b.chunks.length = _
    rw [(OffersOnly.offerPassOf a c.pool).chunks_length]
    exact List.length_append

/-- A chunk that is made stands in the table, picked at most by the pass that follows (R79, R83). -/
theorem State.createChunk_stands (fresh : s.chunk? c.name = none) (waits : c.pool.isSome = true → c.state = .pending)
    (parked : c.pool = none → c.state ≠ .offered) (alone : c.offeree = none) :
    ∃ d, (s.createChunk c).chunk? c.name = some d ∧ d.unpicked = c := by
  have found : ({ s with chunks := s.chunks ++ [c] } : State).chunk? c.name = some c := by
    rw [State.chunk?, List.find?_append, show s.chunks.find? (fun e => e.name = c.name) = none from fresh]
    simp
  obtain ⟨d, there, picked, -⟩ := (OffersOnly.offerPassOf _ c.pool).chunk? found
  refine ⟨d, there, ?_⟩
  cases pool : c.pool with
  | some k => exact picked.unpicked (waits (by rw [pool]; rfl)) alone
  | none =>
    rw [pool] at picked
    obtain rfl | ⟨q, listed, -⟩ := picked
    · simp [Chunk.unpicked, parked pool]
    · simp [State.readyOf] at listed

/-- Settles O59. -/
theorem pricingOfChunks : Obligations.PricingOfChunks := by
  intro s t start stop playStart final c q inPlay
  obtain ⟨enough, least⟩ := estimateOf_spec c.billable q
  obtain ⟨floor, levels, attained⟩ := t.requiredOver_spec playStart stop
  have state : c.state = if t.action.target = none then .parked else .pending := by
    change (if t.action.target.isSome = true then ChunkState.pending else .parked) = _
    cases t.action.target <;> rfl
  refine ⟨enough, least, ?_, ?_, estimateOf_eq_zero c.billable q, rfl, floor, levels, attained, ?_, fun found fresh => ?_⟩
  · change min (s.clock + t.action.turnaround) 4294967295 = _
    split <;> omega
  · change c.due - c.estimate = _
    split <;> omega
  · rw [← state]
    rfl
  · obtain ⟨becomes, arrival, chunks, -, length, touched⟩ := State.makeChunk_leaves found start stop playStart final
    refine ⟨becomes.here, becomes.others, arrival, length, ?_, fun parked => ?_, fun parked => ?_, touched⟩
    · obtain ⟨d, there, same⟩ := State.createChunk_stands fresh
        (fun listed => state.trans (if_neg fun absent => by rw [show c.pool = none from absent] at listed; cases listed))
        (fun absent => by rw [state, if_pos (show t.action.target = none from absent)]; decide) rfl
      refine ⟨d, ?_, same⟩
      rw [State.chunk?, chunks]
      exact there
    · rw [chunks, State.createChunk, show (s.newChunk t start stop playStart final).pool = none from parked]
      rfl
    · have made : s.makeChunk t start stop playStart final = State.updTake
          { s with chunks := s.chunks ++ [c], arrivalSeq := s.arrivalSeq + 1 } t.id (fun t => { t with
            cursor := stop, nextOrdinal := t.nextOrdinal + 1, chunksMade := t.chunksMade + 1 }) := by
        rw [State.makeChunk, State.createChunk, show (s.newChunk t start stop playStart final).pool = none from parked]
        rfl
      rw [made]
      exact .seq (s.addChunk_touches c) (.seq (ps := [.takes, .chunks, .chunkSize, .arrivalSeq, .arrivalTop])
        (State.nextArrival_touches { s with chunks := s.chunks ++ [c] }) (State.countTake_touches _ _ _))

/-! ### The cut point -/

/-- The order of candidates for a cut at a nominal time: the nearer one first, the earlier of two at one distance
(R63). -/
def CutsBefore (n a b : Nat) : Prop := distance a n < distance b n ∨ (distance a n = distance b n ∧ a ≤ b)

theorem CutsBefore.refl (n a : Nat) : CutsBefore n a a := .inr ⟨rfl, le_rfl⟩

theorem CutsBefore.trans {n a b c : Nat} (first : CutsBefore n a b) (second : CutsBefore n b c) : CutsBefore n a c := by
  unfold CutsBefore at *
  omega

theorem nearer_spec (n a b : Nat) :
    (nearer n a b = a ∨ nearer n a b = b) ∧ CutsBefore n (nearer n a b) a ∧ CutsBefore n (nearer n a b) b := by
  unfold nearer CutsBefore
  split
  · omega
  · split
    · omega
    · rcases min_choice a b with least | least <;> rw [least] <;> omega

theorem foldl_nearer (n : Nat) (times : List Nat) (a : Nat) :
    let cut := times.foldl (nearer n) a
    cut ∈ a :: times ∧ ∀ b ∈ a :: times, CutsBefore n cut b := by
  induction times generalizing a with
  | nil => exact ⟨List.mem_cons_self, fun b listed => List.mem_singleton.1 listed ▸ .refl n b⟩
  | cons b times ih =>
    obtain ⟨chosen, before, before'⟩ := nearer_spec n a b
    obtain ⟨listed, first⟩ := ih (nearer n a b)
    have least := first _ List.mem_cons_self
    refine ⟨?_, fun c among => ?_⟩
    · rcases List.mem_cons.1 listed with same | later
      · change times.foldl (nearer n) (nearer n a b) ∈ _
        rw [same]
        rcases chosen with chosen | chosen <;> rw [chosen] <;> simp
      · exact List.mem_cons_of_mem a (List.mem_cons_of_mem b later)
    · rcases List.mem_cons.1 among with rfl | among
      · exact least.trans before
      · rcases List.mem_cons.1 among with rfl | among
        · exact least.trans before'
        · exact first c (List.mem_cons_of_mem _ among)

/-- The times of the break cues in the window about a nominal cut (R63). -/
def breakTimes (cues : List Cue) (n w : Nat) : List Nat :=
  (cues.filter (fun c => c.kind.isBreak && n - w ≤ c.time && c.time ≤ n + w)).map (·.time)

theorem mem_breakTimes {cues : List Cue} {n w time : Nat} : time ∈ breakTimes cues n w ↔
    ∃ c ∈ cues, c.time = time ∧ c.kind.isBreak = true ∧ n ≤ time + w ∧ time ≤ n + w := by
  simp only [breakTimes, List.mem_map, List.mem_filter, Bool.and_eq_true, decide_eq_true_eq]
  constructor
  · rintro ⟨c, ⟨listed, ⟨breaks, from_⟩, until_⟩, rfl⟩
    exact ⟨c, listed, rfl, breaks, by omega, until_⟩
  · rintro ⟨c, listed, rfl, breaks, from_, until_⟩
    exact ⟨c, ⟨listed, ⟨breaks, by omega⟩, until_⟩, rfl⟩

/-- The cut point (R63). -/
theorem cutPoint_spec (cues : List Cue) (n w : Nat) :
    ((∃ time, time ∈ breakTimes cues n w) → cutPoint cues n w ∈ breakTimes cues n w ∧
      ∀ time ∈ breakTimes cues n w, CutsBefore n (cutPoint cues n w) time) ∧
    ((∀ time, time ∉ breakTimes cues n w) → cutPoint cues n w = n) := by
  have cut : cutPoint cues n w = match breakTimes cues n w with
      | [] => n
      | a :: times => times.foldl (nearer n) a := rfl
  rw [cut]
  cases breakTimes cues n w with
  | nil => exact ⟨fun ⟨_, listed⟩ => by simp at listed, fun _ => rfl⟩
  | cons a times => exact ⟨fun _ => foldl_nearer n times a, fun none => absurd List.mem_cons_self (none a)⟩

/-! ### The cut test -/

theorem State.canMake_iff {service : Bool} : s.canMake service = true ↔
    s.chunks.length < 512 ∧ s.arrivalSeq < 4294967295 ∧ (s.deferral = [] ∨ service = true) := by
  simp only [State.canMake, Bool.and_eq_true, Bool.or_eq_true, decide_eq_true_eq, List.isEmpty_iff, and_assoc]
  exact Iff.rfl

theorem State.rollingDue_iff : s.rollingDue t = true ↔ t.action.whole = false ∧
    t.cursor + (s.pool (t.action.target.getD .a)).length + (s.pool (t.action.target.getD .a)).window ≤ t.endTime := by
  rw [State.rollingDue, Bool.and_eq_true, Bool.not_eq_true']
  exact and_congr_right fun _ => decide_eq_true_iff

theorem Take.finalPending_iff : t.finalPending = true ↔ t.state = .closed ∧ t.cursor < t.endTime := by
  simp [Take.finalPending]

/-- A cut that is deferred (R65, R73). -/
theorem State.deferCut_leaves (found : s.take? t.id = some t) (nominal : Nat) :
    let v := s.deferCut t nominal
    (t.deferred = true → v = s) ∧ (t.deferred = false → TakeBecomes t.id s v { t with deferred := true } ∧
      v.deferral = s.deferral ++ [t.id] ∧ v.out = s.out ++ s.deskNotices (.splitDeferred t.id nominal
        (if s.arrivalSeq < 4294967295 then .tableFull else .sequenceEnd)) ∧ Touches [.takes, .deferral, .out] s v) := by
  intro v
  refine ⟨fun deferred => if_pos deferred, fun free => ?_⟩
  let a := s.updTake t.id fun t => { t with deferred := true }
  let b : State := { a with deferral := a.deferral ++ [t.id] }
  have whole : v = b.notifyDesks (.splitDeferred t.id nominal s.deferReason) := if_neg (by simp [free])
  have flags : Touches [.takes] s a := State.flag_touches _ _ _
  have joins : Touches [.deferral] a b := a.deferral_touches _
  have tells := b.notifyDesks_touches (.splitDeferred t.id nominal s.deferReason)
  rw [whole]
  refine ⟨((TakeBecomes.updTake found fun t => { t with deferred := true }).then_touches joins).then_touches tells, ?_, ?_,
    .seq flags (.seq (ps := [.takes, .deferral, .out]) joins tells)⟩
  · rw [tells.get .deferral rfl]
    rfl
  · rw [State.notifyDesks_out, State.deskNotices_congr (s := s) fun q => (joins.link rfl q).trans (flags.link rfl q)]
    rfl

theorem State.rollingCuts_succ (found : s.take? n = some t) (service : Bool) (fuel : Nat) :
    State.rollingCuts n service (fuel + 1) s =
      if s.rollingDue t then
        if s.canMake service then State.rollingCuts n service fuel (s.rollingCut t)
        else s.deferCut t (t.cursor + (s.poolOfTake t).length)
      else s := by
  rw [State.rollingCuts, found]

/-- What a rolling cut leaves (R63, R64). -/
theorem State.rollingCut_leaves (found : s.take? t.id = some t) :
    let v := s.rollingCut t
    v.take? t.id = some { t with cursor := cutPoint t.cues (t.cursor + (s.poolOfTake t).length) (s.poolOfTake t).window
                                 nextOrdinal := t.nextOrdinal + 1, chunksMade := t.chunksMade + 1 } ∧
      v.chunks.length = s.chunks.length + 1 := by
  obtain ⟨becomes, -, -, -, length, -⟩ := State.makeChunk_leaves found t.cursor
    (cutPoint t.cues (t.cursor + (s.poolOfTake t).length) (s.poolOfTake t).window) (t.cursor - (s.poolOfTake t).leadIn) false
  exact ⟨becomes.here, length⟩

/-- Each cut takes a chunk record, so more rounds than free records do not matter (R61). -/
theorem State.rollingCuts_enough (n : Nat) (service : Bool) (fuel : Nat) (s : State)
    (enough : 512 ≤ fuel + s.chunks.length) :
    State.rollingCuts n service (fuel + 1) s = State.rollingCuts n service (fuel + 2) s := by
  induction fuel generalizing s with
  | zero =>
    cases found : s.take? n with
    | none => simp [State.rollingCuts, found]
    | some t =>
      have full : s.canMake service = false := Bool.eq_false_iff.2 fun makes => by
        have room := (State.canMake_iff.1 makes).1
        omega
      rw [State.rollingCuts_succ found, State.rollingCuts_succ found, full]
      rfl
  | succ fuel ih =>
    cases found : s.take? n with
    | none => simp [State.rollingCuts, found]
    | some t =>
      obtain rfl := State.take?_id found
      have length := (State.rollingCut_leaves found).2
      rw [State.rollingCuts_succ found, State.rollingCuts_succ found, ih (s.rollingCut t) (by omega)]

theorem State.cutTest_eq {service : Bool} (found : s.take? n = some t) (kept : t.state ≠ .releasing)
    (served : t.deferred = true → service = true) :
    s.cutTest n service = (State.rollingCuts n service 513 s).finalStep n service := by
  rw [State.cutTest, found]
  refine if_neg ?_
  simp only [Bool.or_eq_true, decide_eq_true_eq, Bool.and_eq_true, Bool.not_eq_true', not_or, not_and,
    Bool.not_eq_false]
  exact ⟨kept, served⟩

theorem State.finalStep_eq {service : Bool} (found : s.take? n = some t) :
    s.finalStep n service = if t.finalPending && !s.rollingDue t then s.finalSplit t service else s := by
  rw [State.finalStep, found]

theorem State.finalStep_of_due {service : Bool} (found : s.take? n = some t) (due : s.rollingDue t = true) :
    s.finalStep n service = s := by
  rw [State.finalStep_eq found, due]
  simp

section
variable {service : Bool} (found : s.take? t.id = some t) (kept : t.state ≠ .releasing)
  (served : t.deferred = true → service = true)
include found kept served

/-- A rolling cut that is due is made whole, and the test goes on behind it (R61, R62, R64). -/
theorem State.cutTest_cuts (due : s.rollingDue t = true) (makes : s.canMake service = true) :
    s.cutTest t.id service = (s.rollingCut t).cutTest t.id service := by
  obtain ⟨there, length⟩ := State.rollingCut_leaves found
  rw [State.cutTest_eq found kept served, State.cutTest_eq there kept served, State.rollingCuts_succ found, if_pos due,
    if_pos makes, State.rollingCuts_enough t.id service 511 (s.rollingCut t) (by omega)]

/-- A rolling cut that is due and cannot be made is deferred (R65). -/
theorem State.cutTest_defers (due : s.rollingDue t = true) (full : ¬ s.canMake service = true) :
    s.cutTest t.id service = s.deferCut t (t.cursor + (s.poolOfTake t).length) := by
  let v := s.deferCut t (t.cursor + (s.poolOfTake t).length)
  obtain ⟨stands, joins⟩ := State.deferCut_leaves found (t.cursor + (s.poolOfTake t).length)
  have stays : v.finalStep t.id service = v := by
    by_cases deferred : t.deferred = true
    · have same : v = s := stands deferred
      rw [same]
      exact State.finalStep_of_due found due
    · obtain ⟨becomes, -, -, touched⟩ := joins (by simpa using deferred)
      have due' : v.rollingDue { t with deferred := true } = true := by
        rw [State.rollingDue, State.poolOfTake, State.pool, touched.get .pools rfl]
        exact due
      exact State.finalStep_of_due becomes.here due'
  rw [State.cutTest_eq found kept served, State.rollingCuts_succ found, if_pos due, if_neg full]
  exact stays

/-- Where no rolling cut is due, the final split is tested (R61). -/
theorem State.cutTest_final (done : ¬ s.rollingDue t = true) :
    s.cutTest t.id service = if t.finalPending then s.finalSplit t service else s := by
  rw [State.cutTest_eq found kept served, State.rollingCuts_succ found, if_neg done, State.finalStep_eq found]
  simp [done]

end

/-- The merge of a short tail into the last chunk (R68). -/
theorem State.mergeTail_leaves {last : ChunkName} (found : s.take? t.id = some t) (there : s.chunk? last = some c) :
    let b := t.billable c.ownStart t.endTime
    let e := estimateOf b (s.pool (c.pool.getD .a)).ratio
    let v := s.mergeTail t c
    v.chunk? last = some { c with
      ownEnd := t.endTime, billable := b, estimate := e, key := c.due - e
      required := t.requiredOver c.playStart t.endTime, merged := true, final := true } ∧
    v.take? t.id = some { t with cursor := t.endTime } ∧ (∀ p, (v.handoff p).reservation ≠ some last) ∧
    v.chunks.length = s.chunks.length ∧ Touches [.takes, .handoff, .chunks] s v := by
  intro b e v
  obtain rfl := State.chunk?_name there
  let f : Chunk → Chunk := fun d => { d with
    ownEnd := t.endTime, billable := b, required := t.requiredOver c.playStart t.endTime
    estimate := e, key := keyOf d.due e, merged := true, final := true }
  let a := s.updChunk c.name f
  have changes : Touches [.handoff, .chunks] s a := s.updChunk_touches c.name f
  have found' : a.take? t.id = some t := (changes.take? rfl _).trans found
  have moves : Touches [.takes] a v := State.countTake_touches a t.id fun t => { t with cursor := t.endTime }
  refine ⟨?_, ?_, fun p => ?_, ?_, .seq changes moves⟩
  · exact State.chunk?_updChunk_self there f fun _ => rfl
  · exact (TakeBecomes.updTake found' fun t => { t with cursor := t.endTime }).here
  · rw [moves.get .handoff rfl, State.handoff_updChunk]
    split
    · simp
    · assumption
  · rw [moves.get .chunks rfl, State.chunks_updChunk, List.length_map]

/-- A take of the deferral list that has caught up leaves it (R66). -/
def State.served (s : State) (n : Nat) : State :=
  State.updTake { s with deferral := s.deferral.filter (fun m => m ≠ n) } n (fun t => { t with deferred := false })

theorem State.served_leaves (found : s.take? n = some t) : TakeBecomes n s (s.served n) { t with deferred := false } ∧
    (s.served n).deferral = s.deferral.filter (· ≠ n) ∧ Touches [.takes, .deferral] s (s.served n) := by
  let a : State := { s with deferral := s.deferral.filter fun m => m ≠ n }
  have leaves : Touches [.deferral] s a := s.deferral_touches _
  have found' : a.take? n = some t := found
  exact ⟨(TakeBecomes.of_touches found leaves).trans (.updTake found' fun t => { t with deferred := false }), rfl,
    .seq leaves (State.flag_touches a n fun t => { t with deferred := false })⟩

theorem State.serveDeferral_cons (rest : List Nat) (caught : (s.cutTest n true).caughtUp n = true) :
    State.serveDeferral (n :: rest) s = if ((s.cutTest n true).served n).chunks.length < 512
      then State.serveDeferral rest ((s.cutTest n true).served n) else (s.cutTest n true).served n := by
  rw [State.serveDeferral]
  exact if_pos caught

theorem State.serveDeferral_behind (rest : List Nat) (behind : ¬ (s.cutTest n true).caughtUp n = true) :
    State.serveDeferral (n :: rest) s = s.cutTest n true := by
  rw [State.serveDeferral]
  exact if_neg behind

theorem State.caughtUp_iff (found : s.take? n = some t) :
    s.caughtUp n = true ↔ ¬ s.rollingDue t = true ∧ ¬ t.finalPending = true := by
  rw [State.caughtUp, found]
  simp

/-- The final split of a take (R67, R68): one chunk over its rest, or the merge of a short tail. -/
theorem State.finalSplit_whole {service : Bool} (whole : t.action.whole = true) :
    s.finalSplit t service = s.finalChunk t service 0 0 := by
  rw [State.finalSplit]
  exact if_pos whole

theorem State.finalSplit_rest {service : Bool} (split_ : t.action.whole = false)
    (long : ¬ (t.endTime - t.cursor < (s.poolOfTake t).length / 4 ∧ t.chunksMade ≠ 0)) :
    s.finalSplit t service = s.finalChunk t service t.cursor (t.cursor - (s.poolOfTake t).leadIn) := by
  rw [State.finalSplit]
  refine (if_neg (by simp [split_])).trans (if_pos ?_)
  rw [Bool.or_eq_true, decide_eq_true_iff, decide_eq_true_iff, Pool.minimumTail]
  omega

theorem State.finalSplit_short {service : Bool} (split_ : t.action.whole = false)
    (short : t.endTime - t.cursor < (s.poolOfTake t).length / 4 ∧ t.chunksMade ≠ 0) :
    s.finalSplit t service = match s.chunk? { take := t.id, ordinal := t.nextOrdinal - 1 } with
      | some last =>
        if last.state = .pending || last.state = .parked then s.mergeTail t last
        else s.finalChunk t service t.cursor (t.cursor - (s.poolOfTake t).leadIn)
      | none => s.finalChunk t service t.cursor (t.cursor - (s.poolOfTake t).leadIn) := by
  rw [State.finalSplit]
  refine (if_neg (by simp [split_])).trans ((if_neg ?_).trans ?_)
  · rw [Bool.or_eq_true, decide_eq_true_iff, decide_eq_true_iff, Pool.minimumTail]
    omega
  · rfl

/-- Settles O60. -/
theorem cutPointIsTheNearestBreak : Obligations.CutPointIsTheNearestBreak := by
  refine ⟨fun cues n w => ?_, ?_⟩
  · intro inWindow away cut
    obtain ⟨chosen, empty⟩ := cutPoint_spec cues n w
    have listed (time : Nat) : time ∈ breakTimes cues n w ↔ inWindow time := mem_breakTimes
    refine ⟨fun ⟨time, within⟩ => ?_, fun none => empty fun time among => none time ((listed time).1 among)⟩
    obtain ⟨member, first⟩ := chosen ⟨time, (listed time).2 within⟩
    exact ⟨(listed _).1 member, fun other within => first other ((listed other).2 within)⟩
  · intro s t service found q nominal tested due pendingFinal makes defers finalChunk short last
    have due_iff : s.rollingDue t = true ↔ due := State.rollingDue_iff
    have final_iff : t.finalPending = true ↔ pendingFinal := Take.finalPending_iff
    have makes_iff : s.canMake service = true ↔ makes := State.canMake_iff
    have deferred (named : Nat) (cut : tested = s.deferCut t named) : defers named := by
      obtain ⟨stands, joins⟩ := State.deferCut_leaves found named
      refine ⟨fun flagged => cut.trans (stands flagged), fun free => ?_⟩
      obtain ⟨becomes, list, out, touched⟩ := joins free
      rw [cut]
      exact ⟨becomes.here, becomes.others, list, out, touched⟩
    refine ⟨fun untested => ?_, fun kept served => ⟨fun dueNow room => ?_, fun dueNow full => ?_, fun done settled => ?_,
      fun done pending => ?_⟩, rfl, fun rest u => ?_⟩
    · change s.cutTest t.id service = s
      rw [State.cutTest, found]
      refine if_pos ?_
      simpa using untested
    · exact State.cutTest_cuts found kept served (due_iff.2 dueNow) (makes_iff.2 room)
    · exact deferred nominal (State.cutTest_defers found kept served (due_iff.2 dueNow) (mt makes_iff.1 full))
    · exact (State.cutTest_final found kept served (mt due_iff.1 done)).trans (if_neg (mt final_iff.1 settled))
    · have split_ : tested = s.finalSplit t service :=
        (State.cutTest_final found kept served (mt due_iff.1 done)).trans (if_pos (final_iff.2 pending))
      have one (start playStart : Nat) (cut : tested = s.finalChunk t service start playStart) :
          finalChunk start playStart :=
        ⟨fun room => cut.trans (if_pos (makes_iff.2 room)),
          fun full => deferred t.endTime (cut.trans (if_neg (mt makes_iff.1 full)))⟩
      refine ⟨fun whole => one 0 0 (split_.trans (State.finalSplit_whole whole)), fun parted long => ?_,
        fun tail taken => ?_, fun tail c there waits => ?_⟩
      · exact one _ _ (split_.trans (State.finalSplit_rest parted fun tail => long ⟨parted, tail⟩))
      · obtain ⟨parted, tail⟩ := tail
        refine one _ _ (split_.trans ((State.finalSplit_short parted tail).trans ?_))
        cases there : s.chunk? last with
        | none => rfl
        | some c =>
          obtain ⟨not_pending, not_parked⟩ := taken c there
          exact if_neg (by simp [not_pending, not_parked])
      · obtain ⟨parted, tail⟩ := tail
        intro b e
        have merged : tested = s.mergeTail t c := by
          refine split_.trans ((State.finalSplit_short parted tail).trans ?_)
          rw [there]
          exact if_pos (by simpa using waits)
        rw [merged]
        exact State.mergeTail_leaves found there
    · intro w there done
      have done_iff : w.caughtUp t.id = true ↔ done := by
        rw [State.caughtUp_iff there, State.rollingDue_iff, Take.finalPending_iff]
      refine ⟨fun behind => State.serveDeferral_behind rest (mt done_iff.1 behind), fun caught => ?_⟩
      obtain ⟨becomes, list, touched⟩ := State.served_leaves there
      refine ⟨w.served t.id, becomes.here, becomes.others, list, touched, ?_⟩
      exact State.serveDeferral_cons rest (done_iff.2 caught)

end

end Sys2Proof.Machine
